-- ==== Sys2Proof/Word.lean ====
section
/-! DEFINITION. The widths of the block (00_scope R10): all values are unsigned. -/

namespace Sys2Proof

/-- `u8` of 00_scope R10: a register, an input byte, an output byte. -/
abbrev Byte := BitVec 8

/-- `u5` of 00_scope R10: an address of the register space (20_memory R32), the width `PTR_WIDTH` of R8. -/
abbrev Addr := BitVec 5

/-- `u16` of 00_scope R10: a channel reading and the generator state, the width `READING_WIDTH` of R8. -/
abbrev Reading := BitVec 16

end Sys2Proof
end

