-- ==== Sys2Proof/Syntax.lean ====
section
/-! DEFINITION. The instructions: one constructor per row of spec/opcode_table.json. An instruction is one input byte
(30_encoding R49). Every bit of the byte is kept, the ignored ones too, so that encoding loses nothing (log entry 22). -/

namespace Sys2Proof

/-- What an input byte is taken as, chosen by the protocol state alone (30_encoding R49). -/
inductive Context where
  /-- `Idle` or `Reading(k)`: the byte is a command first byte, decoded by value. -/
  | command
  /-- `AwaitCount(w)`: the byte is the count byte, whatever its value. -/
  | count
  /-- `Writing(k)`, `k > 0`: the byte is a data byte, whatever its value. -/
  | data
  deriving DecidableEq, Repr

/-- One constructor per row of the opcode table; a field per field of the row's encoding (30_encoding R50). -/
inductive Instr where
  /-- NOP, `0000 000x` (R53). -/
  | nop (x : BitVec 1)
  /-- RDATA, `0001 001x` (R54); `x = 1` is the "status-byte variant, treated identically". -/
  | rdata (x : BitVec 1)
  /-- RREG first byte, `001r rrrr` (R55); `r` is the start address (R51). -/
  | rreg (r : Addr)
  /-- WREG first byte, `010r rrrr` (R56); `r` is the start address (R51). -/
  | wreg (r : Addr)
  /-- COUNT byte, `iiin nnnn` (R57); `i` is ignored, `n` is the count minus one (R52). -/
  | count (i : BitVec 3) (n : BitVec 5)
  /-- WDATA byte, `dddd dddd` (R58). -/
  | wdata (d : Byte)
  /-- IGNORED, `0000 001x` (R59). -/
  | ignored02 (x : BitVec 1)
  /-- IGNORED, `0000 01xx` (R59). -/
  | ignored04 (x : BitVec 2)
  /-- IGNORED, `0000 1xxx` (R59). -/
  | ignored08 (x : BitVec 3)
  /-- IGNORED, `0001 000x` (R59). -/
  | ignored10 (x : BitVec 1)
  /-- IGNORED, `0001 01xx` (R59). -/
  | ignored14 (x : BitVec 2)
  /-- IGNORED, `0001 1xxx` (R59). -/
  | ignored18 (x : BitVec 3)
  /-- IGNORED, `011x xxxx` (R59). -/
  | ignored60 (x : BitVec 5)
  /-- IGNORED, `1xxx xxxx` (R59). -/
  | ignored80 (x : BitVec 7)
  deriving DecidableEq, Repr

end Sys2Proof
end

