-- ==== Sys2Proof/Decode.lean ====
section
/-! DEFINITION. Decode and encode (30_encoding). Decoding is total: every byte has a meaning in every context (R60, R64),
so there is no encoding to reject. -/

namespace Sys2Proof

/-- Field `x`, `r` or `n` of a format: bits `w-1 .. 0` of the byte (30_encoding R50, R51, R52). -/
def lowField (w : Nat) (b : Byte) : BitVec w := b.extractLsb' 0 w

/-- The ignored bits 7:5 of a count byte (30_encoding R52). -/
def highField (b : Byte) : BitVec 3 := b.extractLsb' 5 3

/-- A byte lies in a row: `(byte & mask) = match` (30_encoding R60). -/
def inRow (mask pattern b : Byte) : Bool := b &&& mask == pattern

/-- `(mask, match)` of the rows of the COMMAND context, in the order of spec/opcode_table.json (30_encoding R53 to R56, R59). -/
def commandRows : List (Byte × Byte) :=
  [(0xFE, 0x00), (0xFE, 0x12), (0xE0, 0x20), (0xE0, 0x40), (0xFE, 0x02), (0xFC, 0x04), (0xF8, 0x08), (0xFE, 0x10),
    (0xFC, 0x14), (0xF8, 0x18), (0xE0, 0x60), (0x80, 0x80)]

/-- How many bytes a row contains (30_encoding R60). -/
def rowSize (row : Byte × Byte) : Nat := (List.range 256).countP fun n => inRow row.1 row.2 (BitVec.ofNat 8 n)

/-- `(mask, match)` of the instruction's row of spec/opcode_table.json; the rows COUNT and WDATA contain every byte (30_encoding R57,
R58). -/
def Instr.tableRow : Instr → Byte × Byte
  | .nop _ => (0xFE, 0x00)
  | .rdata _ => (0xFE, 0x12)
  | .rreg _ => (0xE0, 0x20)
  | .wreg _ => (0xE0, 0x40)
  | .count _ _ => (0x00, 0x00)
  | .wdata _ => (0x00, 0x00)
  | .ignored02 _ => (0xFE, 0x02)
  | .ignored04 _ => (0xFC, 0x04)
  | .ignored08 _ => (0xF8, 0x08)
  | .ignored10 _ => (0xFE, 0x10)
  | .ignored14 _ => (0xFC, 0x14)
  | .ignored18 _ => (0xF8, 0x18)
  | .ignored60 _ => (0xE0, 0x60)
  | .ignored80 _ => (0x80, 0x80)

/-- A first byte in the COMMAND context (30_encoding R53 to R56 and R59), in the order of 40_clock_cycle R67. The rows are
disjoint (R60), so the order does not matter; what is left at the end is the row `1xxx xxxx`. -/
def decodeCommand (b : Byte) : Instr :=
  if inRow 0xFE 0x12 b then .rdata (lowField 1 b)
  else if inRow 0xFE 0x00 b then .nop (lowField 1 b)
  else if inRow 0xE0 0x20 b then .rreg (lowField 5 b)
  else if inRow 0xE0 0x40 b then .wreg (lowField 5 b)
  else if inRow 0xFE 0x02 b then .ignored02 (lowField 1 b)
  else if inRow 0xFC 0x04 b then .ignored04 (lowField 2 b)
  else if inRow 0xF8 0x08 b then .ignored08 (lowField 3 b)
  else if inRow 0xFE 0x10 b then .ignored10 (lowField 1 b)
  else if inRow 0xFC 0x14 b then .ignored14 (lowField 2 b)
  else if inRow 0xF8 0x18 b then .ignored18 (lowField 3 b)
  else if inRow 0xE0 0x60 b then .ignored60 (lowField 5 b)
  else .ignored80 (lowField 7 b)

/-- The instruction an input byte is, in its context (30_encoding R49). In the COUNT and DATA contexts all 256 values are a
count or data, "never re-decoded as a new opcode" (R57, R58; conflict C2 for the bits 7:5 of a count byte). -/
def decode (c : Context) (b : Byte) : Instr :=
  match c with
  | .command => decodeCommand b
  | .count => .count (highField b) (lowField 5 b)
  | .data => .wdata b

/-- The byte of an instruction, from the patterns of 30_encoding R50 and R59. -/
def encode : Instr → Byte
  | .nop x => 0b0000000#7 ++ x
  | .rdata x => 0b0001001#7 ++ x
  | .rreg r => 0b001#3 ++ r
  | .wreg r => 0b010#3 ++ r
  | .count i n => i ++ n
  | .wdata d => d
  | .ignored02 x => 0b0000001#7 ++ x
  | .ignored04 x => 0b000001#6 ++ x
  | .ignored08 x => 0b00001#5 ++ x
  | .ignored10 x => 0b0001000#7 ++ x
  | .ignored14 x => 0b000101#6 ++ x
  | .ignored18 x => 0b00011#5 ++ x
  | .ignored60 x => 0b011#3 ++ x
  | .ignored80 x => 0b1#1 ++ x

/-- The one byte of the instruction whose table bits are `w` (every instruction is 8 bits wide: 30_encoding R50). Bits
above `nbits` are 0. -/
def tableByte (nbits w : Nat) : Byte := BitVec.ofNat 8 (w % 2 ^ nbits)

/-- What the decoder reads from an instruction whose bits are `w`, in the COMMAND context, the context of the state after
reset. The bits alone do not tell the rows COUNT and WDATA from a command (30_encoding R57, R58): log entry 18. -/
def decodeTableWord (nbits w : Nat) : Option Instr := some (decode .command (tableByte nbits w))

/-- R62's RREG frame: `0x20|r`, the count byte, then the fill bytes. -/
def rregFrame (r : Addr) (n : BitVec 5) (fill : List Byte) : List Byte :=
  encode (.rreg r) :: encode (.count 0 n) :: fill

/-- R62's WREG frame: `0x40|r`, the count byte, then the data bytes. -/
def wregFrame (r : Addr) (n : BitVec 5) (data : List Byte) : List Byte :=
  encode (.wreg r) :: encode (.count 0 n) :: data

end Sys2Proof
end

