-- ==== Sys2Proof/Config.lean ====
section
/-! DEFINITION. What an implementation fixes: the two sizes of 00_scope R8 that are widths of the state, the open parameters of R9,
and the one free value (the reading of channel indices 12..15, where it is taken as a draw: 92_eei_decisions D5). The other
constants of R8 and the defaults of R9 stand in Machine/Defaults.lean. -/

namespace Sys2Proof

/-- `NREG` (R8): the number of backed register addresses, 0..17. -/
abbrev Config.nReg : Nat := 18

/-- `NCHAN` (R8): the number of simulated channel readings, indices 0..11. -/
abbrev Config.nChan : Nat := 12

/-- FREE VALUE (D5, U4: "a draw per RDATA"): the `n`-th reading drawn for a positive-channel index of 12..15. No body:
nothing is known of any of its values. DESIGN CHOICE, log entry 4; safe. -/
opaque Config.freeHiReading : Nat → Reading

/-- How the reading of a positive-channel index 12..15 is settled (R9 `HI_INDEX_READING`: "decided, may be taken as a
draw"). Log entry 4. -/
inductive HiReading where
  /-- One 16-bit value, the same for every RDATA: the parameter `HI_INDEX_READING`. -/
  | fixed (v : Reading)
  /-- An unconstrained value for each RDATA: D5's conservative model. -/
  | draw
  deriving DecidableEq, Repr

/-- The parameters the source leaves open (00_scope R9). "A model takes each as an argument": they stand in State as plain
data that no operation changes, so that a statement over all states is a statement over all parameters. -/
structure Params where
  /-- `ADDR_ID`. -/
  addrId : Addr
  /-- `ADDR_STATUS`: with `addrInpmux` the only address that has an effect beyond a reset value (10_state R17). -/
  addrStatus : Addr
  /-- `ADDR_INPMUX`. -/
  addrInpmux : Addr
  /-- `ADDR_DATARATE`. -/
  addrDatarate : Addr
  /-- `ADDR_REF`. -/
  addrRef : Addr
  /-- `ADDR_IDAC_MUX`. -/
  addrIdacMux : Addr
  /-- `ADDR_SYS`. -/
  addrSys : Addr
  /-- `ADDR_FSCAL1`. -/
  addrFscal1 : Addr
  /-- `BUSY_MASK`: the designated busy bit of STATUS (10_state R19). -/
  busyMask : Byte
  /-- `QUEUE_DEPTH`: `none` is the unbounded queue of this spec's rules (10_state R22). -/
  queueDepth : Option Nat
  /-- `HI_INDEX_READING`. -/
  hiIndexReading : HiReading
  deriving DecidableEq, Repr

end Sys2Proof
end

