-- ==== Sys2Proof/Machine/Defaults.lean ====
section
/-! DEFINITION. The constants of 00_scope R8, the defaults of the open parameters (R9), and the values after power-on that are
written out (10_state R30). -/

namespace Sys2Proof

/-- `SEED` (00_scope R8): the generator state at process start. -/
def Config.seed : Reading := 0b1001011010101001#16

/-- `GEN_INC` (00_scope R8): the constant the generator adds. -/
def Config.genInc : Reading := 7#16

/-- `BUSY_READS` (00_scope R8): the number of STATUS reads after reset with the busy bit forced high. -/
def Config.busyReads : Nat := 3

/-- The default instantiation of R9. The addresses and the busy bit are PRESUMED (the chip family's, "from general
knowledge, not in source"; log entries 1 and 2); the unbounded queue and the zero reading are the spec's own choices
(log entries 3 and 4). -/
def Params.default : Params where
  addrId := 0x00
  addrStatus := 0x01
  addrInpmux := 0x02
  addrDatarate := 0x04
  addrRef := 0x05
  addrIdacMux := 0x07
  addrSys := 0x09
  addrFscal1 := 0x0F
  busyMask := 0x40
  queueDepth := none
  hiIndexReading := .fixed 0x0000

/-- The register file after power-on with the default addresses (10_state R16's map; the values are R13's). -/
def resetRegs : Vector Byte Config.nReg :=
  #v[0x04, 0x80, 0x01, 0x00, 0x14, 0x10, 0x00, 0xFF, 0x00, 0x10, 0x00, 0x00, 0x00, 0x00, 0x00, 0x40, 0x00, 0x00]

/-- The readings after power-on (10_state R30, the numbers of 43_sequencer R95). -/
def resetReadings : Vector Reading Config.nChan :=
  #v[0x2D5A, 0x5ABB, 0xB57D, 0x6B02, 0xD60B, 0xAC1E, 0x5844, 0xB08F, 0x6126, 0xC253, 0x84AE, 0x0964]

/-- The generator after power-on (10_state R30): the last of the readings. -/
def resetGen : Reading := 0x0964

end Sys2Proof
end

