-- ==== Sys2Proof/Machine/State.lean ====
section
/-! DEFINITION. The state (10_state R12 to R31), the reasons a step can stop, and the machine right after power-on. -/

namespace Sys2Proof.Machine

/-- The protocol state, the spec's `state` (10_state R20): "exactly one variant active at a time". The payloads are `u8`. -/
inductive Proto where
  /-- No command in progress. -/
  | idle
  /-- The first byte of RREG (`false`) or WREG (`true`) has been taken; the next byte is the count. -/
  | awaitCount (isWrite : Bool)
  /-- A register read-out is in progress; `remaining` more register bytes are owed. -/
  | reading (remaining : Byte)
  /-- A register write is in progress; `remaining` more data bytes will be consumed. -/
  | writing (remaining : Byte)
  deriving DecidableEq, Repr

/-- The interface operations (00_scope R7, 70_reset_and_hazards R127). -/
inductive Op where
  /-- `clock(b)`: one full duplex exchange (40_clock_cycle R65). -/
  | clock (b : Byte)
  /-- `reset()` (70_reset_and_hazards R114). -/
  | reset
  /-- `read_channel_snapshot(index)` (43_sequencer R98). -/
  | snapshot (index : Nat)
  deriving DecidableEq, Repr

/-- One result of an operation (70_reset_and_hazards R127): a `u8` per `clock`, a `u16` per `read_channel_snapshot`, none
for `reset`. -/
inductive Result where
  /-- The output byte of a `clock`. -/
  | byte (b : Byte)
  /-- The value of a `read_channel_snapshot`. -/
  | reading (v : Reading)
  deriving DecidableEq, Repr

/-- The complete state (10_state R12), the open parameters (00_scope R9), and the three fields that are the model's own:
`draws`, `pending`, `observed` (log entries 5, 15, 16). -/
@[ext]
structure State where
  /-- The open parameters (00_scope R9). No operation changes them. -/
  params : Params
  /-- `status_sim` (10_state R26): "selected at construction". -/
  statusSim : Bool
  /-- `regs[0..17]` (10_state R13). -/
  regs : Vector Byte Config.nReg
  /-- `state` (10_state R20). -/
  proto : Proto
  /-- `ptr`, the RegisterPointer (10_state R21). -/
  ptr : Addr
  /-- `queue`, the OutputQueue (10_state R22), oldest byte first. -/
  queue : List Byte
  /-- `gen`, the generator state (10_state R23). -/
  gen : Reading
  /-- `readings[0..11]` (10_state R24). -/
  readings : Vector Reading Config.nChan
  /-- `status_reads` (10_state R25): 0..3, saturating. -/
  statusReads : Nat
  /-- The MODEL's own (log entry 5): how many free readings have been drawn. -/
  draws : Nat
  /-- The MODEL's own (log entry 15): the operations the environment still invokes, oldest first. -/
  pending : List Op
  /-- The MODEL's own (log entry 16): the results so far (R127), oldest first. -/
  observed : List Result
  deriving DecidableEq, Repr

/-- Why the machine stops with a fault: never. "No operation raises an exception, for any state and any argument"
(60_exceptions R100; R99, R104). The type has no constructor, so that no model of this file can fault; safe. -/
inductive Fault where
  deriving DecidableEq, Repr

/-- Why a step has no meaning. -/
inductive Refusal where
  /-- Raised by an arm of `exec` for an instruction without a meaning yet: no arm raises it any more. Safe. -/
  | notModelled (mnemonic : String)
  /-- Raised by an enqueue (RDATA) that would exceed a bounded `QUEUE_DEPTH`: 93_implementation_defined U3, "Treat as:
  `refuse`". It cannot arise with the unbounded default. Safe; log entry 3. -/
  | queueFull
  /-- Raised by the meaning of COUNT or WDATA in a protocol state in which no byte is a COUNT or a WDATA (30_encoding R49).
  No step raises it: the decoder's context comes from the same state. Safe; log entry 19. -/
  | outOfContext
  deriving DecidableEq, Repr

/-- The machine right after power-on with the default parameters and the mode off (10_state R30, "after power-on"; the
readings and `gen` are the numbers of 43_sequencer R95). That `PowerOn` (70_reset_and_hazards R113) gives exactly these
values is the statement `ResetStateIsThePowerOnState`. -/
def State.reset : State where
  params := Params.default
  statusSim := false
  regs := resetRegs
  proto := .idle
  ptr := 0
  queue := []
  gen := resetGen
  readings := resetReadings
  statusReads := 0
  draws := 0
  pending := []
  observed := []

end Sys2Proof.Machine
end

