-- ==== Sys2Proof/Machine/Ops.lean ====
section
/-! DEFINITION. The named operations over the state: one update per field, the register file (10_state R14, R15), the output
queue (R22), the decode context (30_encoding R49). There is no exception to take and none to return from: 60_exceptions R99,
R104, R105. -/

namespace Sys2Proof.Machine

/-- What a step or a meaning answers. -/
abbrev Answer := Host.Outcome State Fault Refusal

/-! ### One update per field (00_scope R10, `x <- v`) -/

def State.setRegs (s : State) (v : Vector Byte Config.nReg) : State := { s with regs := v }
def State.setProto (s : State) (p : Proto) : State := { s with proto := p }
def State.setPtr (s : State) (a : Addr) : State := { s with ptr := a }
def State.setQueue (s : State) (q : List Byte) : State := { s with queue := q }
def State.setGen (s : State) (g : Reading) : State := { s with gen := g }
def State.setReadings (s : State) (v : Vector Reading Config.nChan) : State := { s with readings := v }
def State.setStatusReads (s : State) (n : Nat) : State := { s with statusReads := n }
def State.setDraws (s : State) (n : Nat) : State := { s with draws := n }
def State.setPending (s : State) (ops : List Op) : State := { s with pending := ops }

/-- The result of the operation just performed joins the observation (70_reset_and_hazards R127). -/
def State.observe (s : State) (r : Result) : State := { s with observed := s.observed ++ [r] }

/-! ### The register file -/

/-- `RegGet(a)` (10_state R14): "0 if addr > 17". -/
def regGet (s : State) (a : Addr) : Byte :=
  if h : a.toNat < Config.nReg then s.regs[a.toNat] else 0

/-- `RegSet(a, v)` (10_state R15): "no-op if addr > 17"; all 8 bits are stored. -/
def regSet (s : State) (a : Addr) (v : Byte) : State :=
  if h : a.toNat < Config.nReg then s.setRegs (s.regs.set a.toNat v) else s

/-- A valid address: `a <= 17` (00_scope, glossary). -/
def validAddr (a : Addr) : Bool := decide (a.toNat < Config.nReg)

/-- The pointer after an access at a valid address: one more; it is never called at an invalid one (10_state R21). -/
def State.advancePtr (s : State) : State := s.setPtr (s.ptr + 1)

/-! ### The output queue -/

/-- There is room for one more byte: always, with the unbounded queue (10_state R22). -/
def hasRoom (s : State) : Bool :=
  match s.params.queueDepth with
  | none => true
  | some d => decide (s.queue.length < d)

/-- `Enqueue(b)` (00_scope R11): `b` at the tail; beyond a bounded `QUEUE_DEPTH` refused (U3; log entry 3). -/
def enqueue (b : Byte) (s : State) : Answer :=
  if hasRoom s then .next (s.setQueue (s.queue ++ [b])) else .refused .queueFull

/-- `o`, and then `f` on the state it leaves. -/
def thenDo (o : Answer) (f : State → Answer) : Answer :=
  match o with
  | .next s => f s
  | .fault r => .fault r
  | .refused r => .refused r

/-! ### The decode context -/

/-- The context in which phase 2 takes its byte (30_encoding R49, 40_clock_cycle R67): `Writing(0)`, which R31 excludes, falls
through R67's first two arms to the opcode tests (log entry 10). -/
def contextOf : Proto → Context
  | .idle => .command
  | .awaitCount _ => .count
  | .reading _ => .command
  | .writing k => if 0 < k then .data else .command

/-- `Reading(k)` if `k > 0`, else `Idle` (42_register_commands R81; decision D6, log entry 10). -/
def readingOrIdle (k : Byte) : Proto := if 0 < k then .reading k else .idle

/-- `Writing(k)` if `k > 0`, else `Idle` (42_register_commands R80). -/
def writingOrIdle (k : Byte) : Proto := if 0 < k then .writing k else .idle

end Sys2Proof.Machine
end

