-- ==== Sys2Proof/Machine/Operands.lean ====
section
/-! DEFINITION. The operand computations of 43_sequencer R91: the count, the nibbles of INPMUX, the bytes of a reading, and
the reading that RDATA selects (41_simple_commands R73). -/

namespace Sys2Proof.Machine

/-- `count = (input_byte & 0x1F) + 1`, 1..32, held in a `u8` (30_encoding R52). -/
def countOf (n : BitVec 5) : Byte := n.setWidth 8 + 1

/-- `MUXP`, the positive-channel index: the high nibble of INPMUX (10_state R18). -/
def muxp (m : Byte) : BitVec 4 := m.extractLsb' 4 4

/-- `MUXN`, the negative-channel index: the low nibble of INPMUX, "decoded for diagnostics only" (10_state R18). -/
def muxn (m : Byte) : BitVec 4 := m.extractLsb' 0 4

/-- `v[15:8]`, the most significant byte of a reading (20_memory R36). -/
def msb (v : Reading) : Byte := v.extractLsb' 8 8

/-- `v[7:0]`, the least significant byte of a reading (20_memory R36). -/
def lsb (v : Reading) : Byte := v.extractLsb' 0 8

/-- `Enqueue(v[15:8])`, then `Enqueue(v[7:0])` (41_simple_commands R74). -/
def enqueueReading (v : Reading) (s : State) : Answer := thenDo (enqueue (msb v) s) (enqueue (lsb v))

/-- The positive-channel index as INPMUX stands now (20_memory R34). -/
def channelIndex (s : State) : BitVec 4 := muxp (regGet s s.params.addrInpmux)

/-- The reading of the indices 12 ("ground") to 15 ("reserved"), and the state after it (41_simple_commands R73; D5): the
parameter's value, or a free value drawn for this RDATA (log entry 4). -/
def hiReading (s : State) : Reading × State :=
  match s.params.hiIndexReading with
  | .fixed v => (v, s)
  | .draw => (Config.freeHiReading s.draws, s.setDraws (s.draws + 1))

/-- `ReadingSelect()` (41_simple_commands R73), and the state after it: the same, but for the model's own count of draws. -/
def readingSelect (s : State) : Reading × State :=
  let p := channelIndex s
  if h : p.toNat < Config.nChan then (s.readings[p.toNat], s) else hiReading s

end Sys2Proof.Machine
end

