-- ==== Sys2Proof/Machine/Register.lean ====
section
/-! DEFINITION. The register commands RREG and WREG, the count byte and the data byte (42_register_commands). -/

namespace Sys2Proof.Machine

/-- What RREG and WREG share (42_register_commands R77, R78): the start address, any of 0..31, and the wait for the count. -/
def startTransfer (isWrite : Bool) (r : Addr) (s : State) : State := (s.setPtr r).setProto (.awaitCount isWrite)

/-- RREG first byte (42_register_commands R77). -/
def execRreg (r : Addr) (s : State) : Answer := .next (startTransfer false r s)

/-- WREG first byte (42_register_commands R78). -/
def execWreg (r : Addr) (s : State) : Answer := .next (startTransfer true r s)

/-- COUNT byte (42_register_commands R79): bits 7:5 ignored; only `state` changes. Outside `AwaitCount` no byte is a count
(30_encoding R49; log entry 19). -/
def execCount (_i : BitVec 3) (n : BitVec 5) (s : State) : Answer :=
  match s.proto with
  | .awaitCount false => .next (s.setProto (.reading (countOf n)))
  | .awaitCount true => .next (s.setProto (.writing (countOf n)))
  | .idle => .refused .outOfContext
  | .reading _ => .refused .outOfContext
  | .writing _ => .refused .outOfContext

/-- Where a data byte goes (42_register_commands R80): the register at a valid pointer, which advances; else nowhere. -/
def storeAtPtr (d : Byte) (s : State) : State := if validAddr s.ptr then (regSet s s.ptr d).advancePtr else s

/-- WDATA byte (42_register_commands R80): "decrement remaining regardless of validity". Outside `Writing(k)`, `k > 0`, no byte
is data (30_encoding R49; log entry 19). -/
def execWdata (d : Byte) (s : State) : Answer :=
  match s.proto with
  | .writing k =>
    if 0 < k then .next ((storeAtPtr d s).setProto (writingOrIdle (k - 1))) else .refused .outOfContext
  | .idle => .refused .outOfContext
  | .awaitCount _ => .refused .outOfContext
  | .reading _ => .refused .outOfContext

end Sys2Proof.Machine
end

