-- ==== Sys2Proof/Machine/Simple.lean ====
section
/-! DEFINITION. The single-byte commands NOP, RDATA and the ignored bytes (41_simple_commands). -/

namespace Sys2Proof.Machine

/-- "no state change (Phase 1 already supplied the output)" (41_simple_commands R72). -/
def noEffect (s : State) : Answer := .next s

/-- NOP (41_simple_commands R72). -/
def execNop (_x : BitVec 1) (s : State) : Answer := noEffect s

/-- RDATA (41_simple_commands R74): the selected reading, most significant byte first; both encodings alike. -/
def execRdata (_x : BitVec 1) (s : State) : Answer := enqueueReading (readingSelect s).1 (readingSelect s).2

/-- IGNORED, bytes 0x02 and 0x03 (41_simple_commands R75). -/
def execIgnored02 (_x : BitVec 1) (s : State) : Answer := noEffect s

/-- IGNORED, bytes 0x04 to 0x07 (41_simple_commands R75). -/
def execIgnored04 (_x : BitVec 2) (s : State) : Answer := noEffect s

/-- IGNORED, bytes 0x08 to 0x0F (41_simple_commands R75). -/
def execIgnored08 (_x : BitVec 3) (s : State) : Answer := noEffect s

/-- IGNORED, bytes 0x10 and 0x11 (41_simple_commands R75). -/
def execIgnored10 (_x : BitVec 1) (s : State) : Answer := noEffect s

/-- IGNORED, bytes 0x14 to 0x17 (41_simple_commands R75). -/
def execIgnored14 (_x : BitVec 2) (s : State) : Answer := noEffect s

/-- IGNORED, bytes 0x18 to 0x1F (41_simple_commands R75). -/
def execIgnored18 (_x : BitVec 3) (s : State) : Answer := noEffect s

/-- IGNORED, bytes 0x60 to 0x7F (41_simple_commands R75). -/
def execIgnored60 (_x : BitVec 5) (s : State) : Answer := noEffect s

/-- IGNORED, bytes 0x80 to 0xFF (41_simple_commands R75). -/
def execIgnored80 (_x : BitVec 7) (s : State) : Answer := noEffect s

end Sys2Proof.Machine
end

