-- ==== Sys2Proof/Machine/Dispatch.lean ====
section
/-! DEFINITION. Phase 2 of `clock`: one arm per row of the opcode table (40_clock_cycle R67). -/

namespace Sys2Proof.Machine

def exec (i : Instr) (s : State) : Host.Outcome State Fault Refusal :=
  match i with
  | .nop x => Sys2Proof.Machine.execNop x s
  | .rdata x => Sys2Proof.Machine.execRdata x s
  | .rreg r => Sys2Proof.Machine.execRreg r s
  | .wreg r => Sys2Proof.Machine.execWreg r s
  | .count hi n => Sys2Proof.Machine.execCount hi n s
  | .wdata d => Sys2Proof.Machine.execWdata d s
  | .ignored02 x => Sys2Proof.Machine.execIgnored02 x s
  | .ignored04 x => Sys2Proof.Machine.execIgnored04 x s
  | .ignored08 x => Sys2Proof.Machine.execIgnored08 x s
  | .ignored10 x => Sys2Proof.Machine.execIgnored10 x s
  | .ignored14 x => Sys2Proof.Machine.execIgnored14 x s
  | .ignored18 x => Sys2Proof.Machine.execIgnored18 x s
  | .ignored60 x => Sys2Proof.Machine.execIgnored60 x s
  | .ignored80 x => Sys2Proof.Machine.execIgnored80 x s

end Sys2Proof.Machine
end

