-- ==== Sys2Proof/Machine/Flags.lean ====
section
/-! DEFINITION. The block has no flags register (10_state R28). Its one flag-like bit is the busy bit of STATUS (R19), which
the status-bit simulation sets and clears (42_register_commands R82). -/

namespace Sys2Proof.Machine

/-- The simulation applies: the mode is on and the read-out is at STATUS (42_register_commands R82). -/
def statusSimApplies (s : State) : Bool := s.statusSim && s.ptr == s.params.addrStatus

/-- STATUS with the busy bit forced high (42_register_commands R82). -/
def busyHigh (s : State) : Byte := regGet s s.params.addrStatus ||| s.params.busyMask

/-- STATUS with the busy bit cleared (42_register_commands R82). -/
def busyLow (s : State) : Byte := regGet s s.params.addrStatus &&& ~~~ s.params.busyMask

/-- `StatusSim()` (42_register_commands R82). -/
def simulateStatus (s : State) : State :=
  if s.statusReads < Config.busyReads then
    (regSet s s.params.addrStatus (busyHigh s)).setStatusReads (s.statusReads + 1)
  else regSet s s.params.addrStatus (busyLow s)

/-- The step before the register is read: `StatusSim` where it applies, else nothing (42_register_commands R81). -/
def beforeRead (s : State) : State := if statusSimApplies s then simulateStatus s else s

end Sys2Proof.Machine
end

