-- ==== Sys2Proof/Machine/Output.lean ====
section
/-! DEFINITION. Phase 1 of `clock`: the output byte from the state that existed before the cycle (40_clock_cycle R66), with the
register read-out (42_register_commands R81). -/

namespace Sys2Proof.Machine

/-- `ReadOut()` (42_register_commands R81), in `Reading(k)` with `k > 0` and the queue empty: the output byte and the state
after it. -/
def readOut (k : Byte) (s : State) : Byte × State :=
  if validAddr s.ptr then
    (regGet (beforeRead s) s.ptr, (beforeRead s).advancePtr.setProto (readingOrIdle (k - 1)))
  else (0, s.setProto (readingOrIdle (k - 1)))

/-- Phase 1 with the queue empty: steps 2 and 3 of 40_clock_cycle R66. -/
def emptyQueueOutput (s : State) : Byte × State :=
  match s.proto with
  | .idle => (0, s)
  | .awaitCount _ => (0, s)
  | .reading k => if 0 < k then readOut k s else (0, s)
  | .writing _ => (0, s)

/-- `Phase1()` (40_clock_cycle R66): the queue first, then the read-out, then 0. -/
def phase1 (s : State) : Byte × State :=
  match s.queue with
  | b :: q => (b, s.setQueue q)
  | [] => emptyQueueOutput s

end Sys2Proof.Machine
end

