-- ==== Sys2Proof/Machine/Sequencer.lean ====
section
/-! DEFINITION. The ChannelValueGenerator, the regeneration of the readings and the snapshot accessor (43_sequencer). -/

namespace Sys2Proof.Machine

/-- `rotl16(s, 1)` (43_sequencer R89). -/
def rotl16 (s : Reading) : Reading := (s <<< 1) ||| (s >>> 15)

/-- `rotl16(s, 1) +_16 7` (43_sequencer R90, R92): the sum modulo 65536 (log entry 13). -/
def genStep (s : Reading) : Reading := rotl16 s + Config.genInc

/-- `GenNext()` (43_sequencer R93): the value returned is the state after the update. -/
def genNext (s : State) : Reading × State := (genStep s.gen, s.setGen (genStep s.gen))

/-- One turn of the loop of `Regenerate` (43_sequencer R94): `readings[i] <- GenNext()`. -/
def refill (s : State) (i : Nat) : State :=
  (genNext s).2.setReadings ((genNext s).2.readings.setIfInBounds i (genNext s).1)

/-- `Regenerate()` (43_sequencer R94): the twelve readings in ascending order (decision D8, log entry 7). -/
def regenerate (s : State) : State := (List.range Config.nChan).foldl refill s

/-- `read_channel_snapshot(index)` (43_sequencer R98): 0 from index 12 on (decision D9, log entry 8). -/
def snapshot (s : State) (index : Nat) : Reading :=
  if h : index < Config.nChan then s.readings[index] else 0

end Sys2Proof.Machine
end

