-- ==== Sys2Proof/Machine/Reset.lean ====
section
/-! DEFINITION. Reset and power-on (70_reset_and_hazards R113, R114). -/

namespace Sys2Proof.Machine

/-- `DEFAULT[a]` (10_state R13), in the order of its table. -/
def regDefault (p : Params) (a : Addr) : Byte :=
  if a = p.addrId then 0x04
  else if a = p.addrStatus then 0x80
  else if a = p.addrInpmux then 0x01
  else if a = p.addrDatarate then 0x14
  else if a = p.addrRef then 0x10
  else if a = p.addrIdacMux then 0xFF
  else if a = p.addrSys then 0x10
  else if a = p.addrFscal1 then 0x40
  else 0x00

/-- The register file at its defaults (10_state R13). -/
def defaultRegs (p : Params) : Vector Byte Config.nReg :=
  Vector.ofFn fun i : Fin Config.nReg => regDefault p (BitVec.ofNat 5 i.val)

/-- The first part of `Reset` (70_reset_and_hazards R114): "clears RegisterPointer, all counters, OutputQueue, and the
pending-command-prefix flag (returns state to `Idle`); restores RegisterFile to documented defaults". -/
def clearBlock (s : State) : State :=
  ((((s.setPtr 0).setProto .idle).setStatusReads 0).setQueue []).setRegs (defaultRegs s.params)

/-- `Reset()` (70_reset_and_hazards R114). It leaves `status_sim` and the parameters, and does not re-seed `gen`. -/
def resetBlock (s : State) : State := regenerate (clearBlock s)

/-- `PowerOn(sim)` (70_reset_and_hazards R113): the generator at its seed, then the steps of `Reset` (decision D7, log
entry 6), which overwrite every other element given here. -/
def powerOn (p : Params) (sim : Bool) : State :=
  resetBlock
    { params := p, statusSim := sim, regs := defaultRegs p, proto := .idle, ptr := 0, queue := [], gen := Config.seed,
      readings := Vector.replicate Config.nChan 0, statusReads := 0, draws := 0, pending := [], observed := [] }

end Sys2Proof.Machine
end

