-- ==== Sys2Proof/Machine/Clock.lean ====
section
/-! DEFINITION. The interface operations: `clock` (40_clock_cycle R65), `reset` (70_reset_and_hazards R114) and
`read_channel_snapshot` (43_sequencer R98), each atomic (20_memory R41; decision D11, log entry 11). -/

namespace Sys2Proof.Machine

/-- The instruction an input byte is in state `s`, at the start of phase 2 (30_encoding R49). -/
def instrAt (s : State) (b : Byte) : Instr := decode (contextOf s.proto) b

/-- `Phase2(b)` (40_clock_cycle R67). -/
def phase2 (b : Byte) (s : State) : Answer := exec (instrAt s b) s

/-- `clock(b)` (40_clock_cycle R65): phase 1, phase 2 on the state phase 1 left, and phase 1's byte as the result. -/
def clock (b : Byte) (s : State) : Answer :=
  thenDo (phase2 b (phase1 s).2) fun t => .next (t.observe (.byte (phase1 s).1))

/-- One interface operation (70_reset_and_hazards R127). -/
def perform (op : Op) (s : State) : Answer :=
  match op with
  | .clock b => clock b s
  | .reset => .next (resetBlock s)
  | .snapshot index => .next (s.observe (.reading (snapshot s index)))

/-- The oldest operation the environment still invokes, taken off and performed. With none left the block does nothing: "the
block never acts on its own between invocations" (00_scope R7; log entry 15). -/
def invokeNext (s : State) : Answer :=
  match s.pending with
  | [] => .next s
  | op :: rest => perform op (s.setPending rest)

/-- The protocol state in which a byte is a command first byte; one that already is so is left (30_encoding R49). -/
def commandProto (p : Proto) : Proto :=
  match contextOf p with
  | .command => p
  | .count => .idle
  | .data => .idle

end Sys2Proof.Machine
end

