-- ==== Sys2Proof/Machine/Step.lean ====
section
/-! DEFINITION. One step of the machine: the next interface operation the environment invokes (00_scope R7, R127). -/

namespace Sys2Proof.Machine

/-- One step: one interface operation, or nothing where none is pending. -/
def step (s : State) : Host.Outcome State Fault Refusal := invokeNext s

/-- `s` with the instruction whose table bits are `w` as the very next input byte, ahead of what is pending, in a protocol
state that decodes it as a command (log entry 17). -/
def State.withFetchWord (s : State) (nbits w : Nat) : State :=
  (s.setProto (commandProto s.proto)).setPending (.clock (tableByte nbits w) :: s.pending)

end Sys2Proof.Machine
end

