-- ==== Sys2Proof/WellFormed.lean ====
section
/-! DEFINITION. What is well formed: an instruction in a decode context (30_encoding R49; the widths of its fields are its
types), and a choice of the open parameters (00_scope R9). -/

namespace Sys2Proof

/-- The context in which the instruction's row is decoded: the `context` of its row of spec/opcode_table.json. -/
def Instr.context : Instr → Context
  | .nop _ => .command
  | .rdata _ => .command
  | .rreg _ => .command
  | .wreg _ => .command
  | .count _ _ => .count
  | .wdata _ => .data
  | .ignored02 _ => .command
  | .ignored04 _ => .command
  | .ignored08 _ => .command
  | .ignored10 _ => .command
  | .ignored14 _ => .command
  | .ignored18 _ => .command
  | .ignored60 _ => .command
  | .ignored80 _ => .command

/-- The instruction can be read in context `c` (30_encoding R49). -/
def Instr.wellFormed (c : Context) (i : Instr) : Bool := i.context == c

/-- The eight named addresses, in the order of 00_scope R9. -/
def Params.addrs (p : Params) : List Addr :=
  [p.addrId, p.addrStatus, p.addrInpmux, p.addrDatarate, p.addrRef, p.addrIdacMux, p.addrSys, p.addrFscal1]

/-- "each in 0..17" (00_scope R9, 10_state R16). -/
def Params.addrsBacked (p : Params) : Bool := p.addrs.all fun a => decide (a.toNat < Config.nReg)

/-- "pairwise distinct" (00_scope R9, 10_state R16). -/
def Params.addrsDistinct (p : Params) : Bool := decide p.addrs.Nodup

/-- "8-bit mask with exactly one bit set" (00_scope R9). -/
def Params.busyOneBit (p : Params) : Bool :=
  decide (p.busyMask ∈ ([0x01, 0x02, 0x04, 0x08, 0x10, 0x20, 0x40, 0x80] : List Byte))

/-- "positive integer or unbounded" (00_scope R9). -/
def Params.depthPositive (p : Params) : Bool :=
  match p.queueDepth with
  | none => true
  | some d => decide (0 < d)

/-- A choice of the open parameters that 00_scope R9 admits. -/
def Params.wf (p : Params) : Bool :=
  p.addrsBacked && p.addrsDistinct && p.busyOneBit && p.depthPositive

end Sys2Proof
end

