-- ==== Sys2Proof/Safety.lean ====
section
/-! DEFINITION. What holds of a safe run, in the terms the statements use: the ranges of 10_state R31, runs and their
observations (70_reset_and_hazards R127), and the reference values of whole frames (42_register_commands R83 to R86). -/

namespace Sys2Proof.Machine

/-! ### Invariants -/

/-- "`Reading(k)` only with `1 <= k <= 32`", the same for `Writing(k)` (10_state R31). -/
def protoInRange : Proto → Bool
  | .idle => true
  | .awaitCount _ => true
  | .reading k => decide (1 ≤ k.toNat ∧ k.toNat ≤ 32)
  | .writing k => decide (1 ≤ k.toNat ∧ k.toNat ≤ 32)

/-- The ranges of 10_state R31. The others it names (`ptr` in 0..31, 18 registers, 12 readings, a finite queue) hold by the
types of the fields. -/
abbrev RangesHold (s : State) : Prop :=
  protoInRange s.proto = true ∧ s.statusReads ≤ Config.busyReads ∧ (s.statusSim = false → s.statusReads = 0)

/-- A bounded queue holds no more than its bound (00_scope R9). -/
def withinDepth (s : State) : Bool :=
  match s.params.queueDepth with
  | none => true
  | some d => decide (s.queue.length ≤ d)

/-- The invariant of the machine: admissible parameters (00_scope R9), the ranges of 10_state R31, the queue's bound, and
`gen = readings[11]` (43_sequencer R94: "After `Regenerate`, `gen = readings[11]`", and R97). -/
abbrev Inv (s : State) : Prop :=
  s.params.wf = true ∧ RangesHold s ∧ withinDepth s = true ∧ s.gen = s.readings[11]

/-! ### Runs -/

/-- `n` steps of the machine, stopping at the first refusal. -/
def runSteps (n : Nat) (s : State) : Answer := Host.Core.run Sys2Proof.core n s

/-- The start of a run (70_reset_and_hazards R127): one `PowerOn(sim)`, then the operations `ops`. -/
def startOf (p : Params) (sim : Bool) (ops : List Op) : State := (powerOn p sim).setPending ops

/-- A state that some prefix of some run leaves (70_reset_and_hazards R127: "every prefix of a run is a run"). -/
def Reachable (s : State) : Prop :=
  ∃ p sim ops n, p.wf = true ∧ runSteps n (startOf p sim ops) = .next s

/-- One `clock` per byte, in order. -/
def clocks (bs : List Byte) : List Op := bs.map .clock

/-- The operation is a `clock`. -/
def Op.isClock : Op → Bool
  | .clock _ => true
  | .reset => false
  | .snapshot _ => false

/-- The operation is a `reset()`. -/
def Op.isReset : Op → Bool
  | .clock _ => false
  | .reset => true
  | .snapshot _ => false

/-- The four rows of 43_sequencer R95's table of reset periods, each the generator's value and the twelve readings. -/
def orbitRow : Nat → Reading × Vector Reading Config.nChan
  | 0 => (0x0964, #v[0x2D5A, 0x5ABB, 0xB57D, 0x6B02, 0xD60B, 0xAC1E, 0x5844, 0xB08F, 0x6126, 0xC253, 0x84AE, 0x0964])
  | 1 => (0xB08F, #v[0x12CF, 0x25A5, 0x4B51, 0x96A9, 0x2D5A, 0x5ABB, 0xB57D, 0x6B02, 0xD60B, 0xAC1E, 0x5844, 0xB08F])
  | 2 => (0x6B02, #v[0x6126, 0xC253, 0x84AE, 0x0964, 0x12CF, 0x25A5, 0x4B51, 0x96A9, 0x2D5A, 0x5ABB, 0xB57D, 0x6B02])
  | _ => (0x96A9, #v[0xD60B, 0xAC1E, 0x5844, 0xB08F, 0x6126, 0xC253, 0x84AE, 0x0964, 0x12CF, 0x25A5, 0x4B51, 0x96A9])

/-! ### Reference values of whole frames -/

/-- The value a STATUS read-out returns with the mode on, and leaves in the register (42_register_commands R82). -/
def simulatedStatus (s : State) : Byte := if s.statusReads < Config.busyReads then busyHigh s else busyLow s

/-- `status_reads` after one more STATUS read-out with the mode on (42_register_commands R82). -/
def countedOnce (n : Nat) : Nat := if n < Config.busyReads then n + 1 else n

/-- A transfer of `c` registers from `r` accesses address `a` (42_register_commands R83). -/
def accessed (r : Addr) (c : Nat) (a : Addr) : Bool :=
  decide (r.toNat ≤ a.toNat ∧ a.toNat < r.toNat + c ∧ a.toNat < Config.nReg)

/-- `v_i` of an RREG frame from `r`, in terms of the state before the frame (42_register_commands R84). -/
def frameValue (s : State) (r : Addr) (i : Nat) : Byte :=
  if r.toNat + i < Config.nReg then
    if s.statusSim = true ∧ BitVec.ofNat 5 (r.toNat + i) = s.params.addrStatus then simulatedStatus s
    else regGet s (BitVec.ofNat 5 (r.toNat + i))
  else 0

/-- The pointer after a transfer of `c` registers at `r` (42_register_commands R83). -/
def finalPtr (r : Addr) (c : Nat) : Nat := if r.toNat < Config.nReg then min (r.toNat + c) 18 else r.toNat

end Sys2Proof.Machine
end

