-- ==== Sys2Proof/Certificates/Slice0/Obligations.lean ====
section
/-! DEFINITION. The statements for the provers, file by file of spec/. Addresses are written `a.toNat < 18` for the spec's
`a <= 17`, bit fields as `extractLsb'`. -/

open Sys2Proof Sys2Proof.Machine

/-! ### 30_encoding -/

/-- Bytes written out from the patterns of 30_encoding R50 and R59, one or more per row, in their contexts. -/
def Obligations.ExampleBytesDecode : Prop :=
  decode .command 0b00000000 = .nop 0 ∧ decode .command 0b00000001 = .nop 1 ∧
  decode .command 0b00010010 = .rdata 0 ∧ decode .command 0b00010011 = .rdata 1 ∧
  decode .command 0b00100010 = .rreg 2 ∧ decode .command 0b00111111 = .rreg 31 ∧
  decode .command 0b01000010 = .wreg 2 ∧ decode .command 0b01011111 = .wreg 31 ∧
  decode .count 0b00010010 = .count 0 18 ∧ decode .count 0b11100011 = .count 7 3 ∧
  decode .data 0b00010010 = .wdata 0b00010010 ∧
  decode .command 0b00000011 = .ignored02 1 ∧ decode .command 0b00000110 = .ignored04 2 ∧
  decode .command 0b00001101 = .ignored08 5 ∧ decode .command 0b00010001 = .ignored10 1 ∧
  decode .command 0b00010111 = .ignored14 3 ∧ decode .command 0b00011111 = .ignored18 7 ∧
  decode .command 0b01110001 = .ignored60 17 ∧ decode .command 0b10000000 = .ignored80 0

/-- 30_encoding R60: of the twelve rows of the COMMAND context exactly one contains a given byte, and it is the row of the
instruction that the byte decodes to; the rows hold 2 bytes (NOP), 2 (RDATA), 32 (RREG), 32 (WREG) and, the eight IGNORED rows
together, 188: all 256. -/
def Obligations.CommandRowsPartitionTheBytes : Prop :=
  (∀ b : Byte, (commandRows.filter fun row => inRow row.1 row.2 b) = [(decode .command b).tableRow]) ∧
  (commandRows.take 4).map rowSize = [2, 2, 32, 32] ∧ ((commandRows.drop 4).map rowSize).sum = 188

/-- The rows of 30_encoding R53 to R58, each on every byte of its pattern: mask and match, and the fields of R51 and R52. In the
COUNT and DATA contexts every byte is a count or data. -/
def Obligations.BytesDecodeByTheirPatterns : Prop :=
  ∀ b : Byte,
    (b &&& 0xFE = 0x00 → decode .command b = .nop (b.extractLsb' 0 1)) ∧
    (b &&& 0xFE = 0x12 → decode .command b = .rdata (b.extractLsb' 0 1)) ∧
    (b &&& 0xE0 = 0x20 → decode .command b = .rreg (b.extractLsb' 0 5)) ∧
    (b &&& 0xE0 = 0x40 → decode .command b = .wreg (b.extractLsb' 0 5)) ∧
    decode .count b = .count (b.extractLsb' 5 3) (b.extractLsb' 0 5) ∧ decode .data b = .wdata b

/-- Decode and encode are inverse in both directions, in every context: for every instruction that is well formed in a
context, decoding its byte gives it back with every field at every value, and no byte of a context is lost. -/
def Obligations.DecodeAndEncodeAreInverse : Prop :=
  ∀ (c : Context) (b : Byte) (i : Instr), decode c b = i ↔ i.wellFormed c = true ∧ encode i = b

/-! ### 40_clock_cycle: the step, phase 1, phase 2 -/

/-- A step at a pending `clock(b)` runs the instruction that `b` decodes to in the protocol state phase 1 leaves: its next
state is exec's, with phase 1's byte as the result; its refusal is exec's. -/
def Obligations.StepRunsTheDecodedInstruction : Prop :=
  ∀ (s : State) (b : Byte) (rest : List Op) (i : Instr), s.pending = .clock b :: rest →
    decode (contextOf (phase1 (s.setPending rest)).2.proto) b = i →
    (∀ t, exec i (phase1 (s.setPending rest)).2 = .next t →
      step s = .next { t with observed := t.observed ++ [.byte (phase1 (s.setPending rest)).1] }) ∧
    (∀ r, exec i (phase1 (s.setPending rest)).2 = .refused r → step s = .refused r)

/-- Every step takes exactly the oldest pending operation and records exactly its result (70_reset_and_hazards R127): for a
`clock` the byte of phase 1, for a snapshot the 16-bit value of the accessor, for a reset nothing. With none left the block does
nothing (00_scope R7: "The block never acts on its own between invocations"). The two lists are the model's choice, log entries 15
and 16. -/
def Obligations.StepTakesOneOperationAndRecordsItsResult : Prop :=
  ∀ (s t : State), step s = .next t →
    t.pending = s.pending.tail ∧
    match s.pending with
    | [] => t = s
    | .clock _ :: _ => t.observed = s.observed ++ [.byte (phase1 s).1]
    | .reset :: _ => t.observed = s.observed
    | .snapshot i :: _ => t.observed = s.observed ++ [.reading (snapshot s i)]

/-- Phase 1 (40_clock_cycle R66): the queue's oldest byte first; else a register read-out, with the pointer advanced only at a
valid address and the count decremented in any case; else 0. That a read-out ends in `Idle` is decision D6 (log entry 10). The
read-out of STATUS with the simulation on is the statement `StatusReadOutForcesThenClearsTheBusyBit`. -/
def Obligations.PhaseOneServesTheQueueThenTheReadOut : Prop :=
  ∀ s : State,
    (∀ b q, s.queue = b :: q → phase1 s = (b, { s with queue := q })) ∧
    (∀ k, s.queue = [] → s.proto = .reading k → 0 < k → s.ptr.toNat < 18 →
      ¬(s.statusSim = true ∧ s.ptr = s.params.addrStatus) →
      phase1 s = (regGet s s.ptr, { s with ptr := s.ptr + 1, proto := if k = 1 then .idle else .reading (k - 1) })) ∧
    (∀ k, s.queue = [] → s.proto = .reading k → 0 < k → 18 ≤ s.ptr.toNat →
      phase1 s = (0, { s with proto := if k = 1 then .idle else .reading (k - 1) })) ∧
    (s.queue = [] → (∀ k, 0 < k → s.proto ≠ .reading k) → phase1 s = (0, s))

/-- Phase 2 (40_clock_cycle R67), arm by arm, on the byte's bits: data, count, RDATA, NOP, RREG, WREG, else ignored. -/
def Obligations.PhaseTwoTestsItsArmsInOrder : Prop :=
  ∀ (b : Byte) (s : State),
    (∀ k, s.proto = .writing k → 0 < k → phase2 b s = exec (.wdata b) s) ∧
    (∀ w, s.proto = .awaitCount w → phase2 b s = exec (.count (b.extractLsb' 5 3) (b.extractLsb' 0 5)) s) ∧
    ((s.proto = .idle ∨ ∃ k, s.proto = .reading k) →
      ((b = 0x12 ∨ b = 0x13) → phase2 b s = exec (.rdata (b.extractLsb' 0 1)) s) ∧
      ((b = 0x00 ∨ b = 0x01) → phase2 b s = exec (.nop (b.extractLsb' 0 1)) s) ∧
      (b.extractLsb' 5 3 = 0b001#3 → phase2 b s = exec (.rreg (b.extractLsb' 0 5)) s) ∧
      (b.extractLsb' 5 3 = 0b010#3 → phase2 b s = exec (.wreg (b.extractLsb' 0 5)) s) ∧
      (b ∉ ([0x00, 0x01, 0x12, 0x13] : List Byte) → b.extractLsb' 5 3 ≠ 0b001#3 → b.extractLsb' 5 3 ≠ 0b010#3 →
        phase2 b s = .next s))

/-- The phase-2 rows of the transition table (40_clock_cycle R68): the protocol state after phase 2, for every protocol state
and byte. -/
def Obligations.PhaseTwoTransitionTable : Prop :=
  ∀ (b : Byte) (s t : State), phase2 b s = .next t →
    (∀ k, s.proto = .writing k → 0 < k → t.proto = if k = 1 then .idle else .writing (k - 1)) ∧
    (s.proto = .awaitCount false → t.proto = .reading ((b &&& 0x1F) + 1)) ∧
    (s.proto = .awaitCount true → t.proto = .writing ((b &&& 0x1F) + 1)) ∧
    ((s.proto = .idle ∨ ∃ k, s.proto = .reading k) →
      t.proto =
        if 0x20 ≤ b ∧ b ≤ 0x3F then .awaitCount false else if 0x40 ≤ b ∧ b ≤ 0x5F then .awaitCount true else s.proto)

/-- 40_clock_cycle R69: the output byte of a cycle does not depend on the input byte of the same cycle. -/
def Obligations.OutputDoesNotDependOnTheInputOfItsCycle : Prop :=
  ∀ (s t t' : State) (b b' : Byte), clock b s = .next t → clock b' s = .next t' → t.observed = t'.observed

/-- 40_clock_cycle R71: the queue loses its oldest byte, if any, and gains two exactly where phase 2 executes an RDATA. -/
def Obligations.QueueOccupancyLaw : Prop :=
  ∀ (s t : State) (b : Byte), clock b s = .next t →
    t.queue.length = max (s.queue.length - 1) 0 + (if ∃ x, instrAt (phase1 s).2 b = .rdata x then 2 else 0)

/-- 40_clock_cycle R70 and 60_exceptions R100: with the unbounded queue every operation completes, in every state, for every
argument. -/
def Obligations.EveryOperationCompletesWithAnUnboundedQueue : Prop :=
  ∀ s : State, s.params.queueDepth = none → ∃ t, step s = .next t

/-- The only refusal a step answers is that of an RDATA byte in the COMMAND context whose two bytes do not fit a bounded
queue. The model's choice: log entry 3 (93_implementation_defined U3: "Treat as: `refuse`"). -/
def Obligations.OnlyAFullBoundedQueueIsRefused : Prop :=
  ∀ (s : State) (r : Refusal), step s = .refused r →
    r = .queueFull ∧
    ∃ b rest d, s.pending = .clock b :: rest ∧ contextOf s.proto = .command ∧ (b = 0x12 ∨ b = 0x13) ∧
      s.params.queueDepth = some d ∧ d < s.queue.length - 1 + 2

/-! ### 41_simple_commands -/

/-- NOP and the eight IGNORED rows complete in every state and change nothing (41_simple_commands R72, R75). -/
def Obligations.NopAndIgnoredBytesChangeNothing : Prop :=
  ∀ s : State,
    (∀ x, exec (.nop x) s = .next s) ∧ (∀ x, exec (.ignored02 x) s = .next s) ∧
    (∀ x, exec (.ignored04 x) s = .next s) ∧ (∀ x, exec (.ignored08 x) s = .next s) ∧
    (∀ x, exec (.ignored10 x) s = .next s) ∧ (∀ x, exec (.ignored14 x) s = .next s) ∧
    (∀ x, exec (.ignored18 x) s = .next s) ∧ (∀ x, exec (.ignored60 x) s = .next s) ∧
    (∀ x, exec (.ignored80 x) s = .next s)

/-- RDATA (41_simple_commands R74), both encodings: the selected reading's most significant byte, then its least significant
byte, at the tail of the queue, and nothing else (`draws` is the model's own count, log entry 5). Completes wherever two bytes
fit: always, with the unbounded queue. -/
def Obligations.RdataEnqueuesTheReadingMsbFirst : Prop :=
  ∀ (x : BitVec 1) (s : State), (∀ d, s.params.queueDepth = some d → s.queue.length + 2 ≤ d) →
    ∃ t, exec (.rdata x) s = .next t ∧
      t.queue = s.queue ++ [(readingSelect s).1.extractLsb' 8 8, (readingSelect s).1.extractLsb' 0 8] ∧
      t = { s with queue := t.queue, draws := t.draws }

/-- `ReadingSelect` (41_simple_commands R73): the high nibble of INPMUX below 12 selects the stored reading and changes
nothing; from 12 on the reading is the parameter's value, or a free value, the next draw. The last two clauses are decision D5
(log entry 4). -/
def Obligations.ReadingSelectTakesTheChannelOfInpmux : Prop :=
  ∀ (s : State) (p : Nat), ((regGet s s.params.addrInpmux).extractLsb' 4 4).toNat = p →
    (∀ h : p < 12, readingSelect s = (s.readings[p], s)) ∧
    (12 ≤ p → ∀ v, s.params.hiIndexReading = .fixed v → readingSelect s = (v, s)) ∧
    (12 ≤ p → s.params.hiIndexReading = .draw →
      readingSelect s = (Config.freeHiReading s.draws, { s with draws := s.draws + 1 }))

/-- RDATA's two bytes do not fit a bounded queue: refused. The model's choice: log entry 3 (U3: "Treat as: `refuse`"). -/
def Obligations.RdataBeyondABoundedQueueIsRefused : Prop :=
  ∀ (x : BitVec 1) (s : State) (d : Nat), s.params.queueDepth = some d → d < s.queue.length + 2 →
    exec (.rdata x) s = .refused .queueFull

/-- The low nibble of INPMUX, the negative channel, "does not affect the returned value" (41_simple_commands R73): two values
written to INPMUX that agree in the high nibble select the same reading. -/
def Obligations.NegativeChannelDoesNotAffectTheReading : Prop :=
  ∀ (s : State) (v w : Byte), v.extractLsb' 4 4 = w.extractLsb' 4 4 →
    (readingSelect (regSet s s.params.addrInpmux v)).1 = (readingSelect (regSet s s.params.addrInpmux w)).1

/-- 70_reset_and_hazards R118: an RDATA interpreted in cycle `t` is answered in the two cycles after the bytes already queued,
whatever bytes are sent meanwhile. -/
def Obligations.RdataIsAnsweredBehindTheQueuedBytes : Prop :=
  ∀ (s : State) (b : Byte) (bs : List Byte) (rest : List Op), s.params.queueDepth = none →
    (s.proto = .idle ∨ ∃ k, s.proto = .reading k) → (b = 0x12 ∨ b = 0x13) →
    s.pending = .clock b :: clocks bs ++ rest → bs.length = s.queue.tail.length + 2 →
    ∃ t, runSteps (bs.length + 1) s = .next t ∧ t.pending = rest ∧
      t.observed = s.observed ++ [.byte (phase1 s).1] ++ s.queue.tail.map .byte ++
        [.byte ((readingSelect (phase1 s).2).1.extractLsb' 8 8), .byte ((readingSelect (phase1 s).2).1.extractLsb' 0 8)]

/-! ### 42_register_commands -/

/-- RREG first byte (42_register_commands R77), in every state and for every start address. -/
def Obligations.RregLoadsThePointerAndAwaitsTheCount : Prop :=
  ∀ (r : Addr) (s : State), exec (.rreg r) s = .next { s with ptr := r, proto := .awaitCount false }

/-- WREG first byte (42_register_commands R78), in every state and for every start address. -/
def Obligations.WregLoadsThePointerAndAwaitsTheCount : Prop :=
  ∀ (r : Addr) (s : State), exec (.wreg r) s = .next { s with ptr := r, proto := .awaitCount true }

/-- COUNT byte (42_register_commands R79): `n + 1` registers, 1 to 32, whatever bits 7:5; only `state` changes. -/
def Obligations.CountStartsATransferOfOneMoreThanItsField : Prop :=
  ∀ (hi : BitVec 3) (n : BitVec 5) (s : State) (w : Bool), s.proto = .awaitCount w →
    ∃ c : Byte, c.toNat = n.toNat + 1 ∧
      exec (.count hi n) s = .next { s with proto := if w then .writing c else .reading c }

/-- WDATA byte (42_register_commands R80): stored at a valid pointer, which advances, and discarded at an invalid one, which
stays; the count goes down in any case; nothing else changes. -/
def Obligations.WdataStoresAtAValidPointerAndCountsDown : Prop :=
  ∀ (d : Byte) (s : State) (k : Byte), s.proto = .writing k → 0 < k →
    ∃ t, exec (.wdata d) s = .next t ∧
      (∀ a, regGet t a = if a = s.ptr ∧ s.ptr.toNat < 18 then d else regGet s a) ∧
      t.ptr = (if s.ptr.toNat < 18 then s.ptr + 1 else s.ptr) ∧
      t.proto = (if k = 1 then .idle else .writing (k - 1)) ∧
      t = { s with regs := t.regs, ptr := t.ptr, proto := t.proto }

/-- COUNT and WDATA have no meaning outside their contexts (30_encoding R49). The model's choice: log entry 19; no step asks
for it (`OnlyAFullBoundedQueueIsRefused`). -/
def Obligations.CountAndWdataOutsideTheirContextAreRefused : Prop :=
  ∀ s : State,
    (∀ hi n, (∀ w, s.proto ≠ .awaitCount w) → exec (.count hi n) s = .refused .outOfContext) ∧
    (∀ d, (∀ k, 0 < k → s.proto ≠ .writing k) → exec (.wdata d) s = .refused .outOfContext)

/-- The read-out of STATUS with the simulation on (42_register_commands R82): the busy bit forced high in the first three since
the reset, cleared from the fourth on, in the register itself; the other registers stay. The busy bit's place is decision D3 (log
entry 2), the saturating count decision D10 (log entry 9), the end of a read-out in `Idle` decision D6 (log entry 10). -/
def Obligations.StatusReadOutForcesThenClearsTheBusyBit : Prop :=
  ∀ (s : State) (k v : Byte), s.queue = [] → s.proto = .reading k → 0 < k → s.statusSim = true →
    s.ptr = s.params.addrStatus → s.ptr.toNat < 18 →
    v = (if s.statusReads < 3 then regGet s s.ptr ||| s.params.busyMask else regGet s s.ptr &&& ~~~s.params.busyMask) →
    (phase1 s).1 = v ∧
    (∀ a, regGet (phase1 s).2 a = if a = s.ptr then v else regGet s a) ∧
    (phase1 s).2 =
      { s with
        regs := (phase1 s).2.regs, ptr := s.ptr + 1, proto := if k = 1 then .idle else .reading (k - 1),
        statusReads := if s.statusReads < 3 then s.statusReads + 1 else s.statusReads }

/-- 42_register_commands R82, from the reset on: with the simulation on, four single-register reads of STATUS return its default
with the busy bit high three times, then with it low. The busy bit's place is decision D3 (log entry 2), the saturating count
decision D10 (log entry 9). -/
def Obligations.FirstThreeStatusReadsAfterResetAreBusy : Prop :=
  ∀ (s : State) (rest : List Op), s.params.wf = true → s.statusSim = true →
    s.pending = .reset :: clocks (rregFrame s.params.addrStatus 0 [0] ++ rregFrame s.params.addrStatus 0 [0] ++
      rregFrame s.params.addrStatus 0 [0] ++ rregFrame s.params.addrStatus 0 [0]) ++ rest →
    ∃ t, runSteps 13 s = .next t ∧ t.pending = rest ∧ t.statusReads = 3 ∧
      t.observed = s.observed ++
        ([0, 0, 0x80 ||| s.params.busyMask, 0, 0, 0x80 ||| s.params.busyMask, 0, 0, 0x80 ||| s.params.busyMask,
          0, 0, 0x80 &&& ~~~s.params.busyMask] : List Byte).map .byte

/-- The RegisterPointer after every operation (10_state R21; the advance law of 42_register_commands R83): 0 after a reset; the
low five bits of an RREG or WREG first byte; one more after an access at a valid address (a data byte, or a read-out with the
queue empty); unchanged by everything else, so that it never wraps and stays where it is from 18 on. -/
def Obligations.PointerAfterEveryOperation : Prop :=
  ∀ s t : State, step s = .next t →
    match s.pending with
    | [] => t.ptr = s.ptr
    | .snapshot _ :: _ => t.ptr = s.ptr
    | .reset :: _ => t.ptr = 0
    | .clock b :: _ =>
      t.ptr =
        if contextOf s.proto = .command ∧ 0x20 ≤ b ∧ b ≤ 0x5F then b.extractLsb' 0 5
        else if s.ptr.toNat < 18 ∧
            ((∃ k, 0 < k ∧ s.proto = .writing k) ∨ (s.queue = [] ∧ ∃ k, 0 < k ∧ s.proto = .reading k)) then s.ptr + 1
        else s.ptr

/-- 42_register_commands R84: an RREG frame of `n + 1` registers from `r`, its fill bytes NOPs, from `Idle` with the queue empty:
two zeros, then the registers in ascending order and 0 past address 17. Only STATUS can change, and only with the simulation on.
Every start address and count, and both modes. STATUS' value with the simulation on rests on decision D3 (the busy bit's place,
log entry 2) and D10 (the saturating count, log entry 9), the end in `Idle` on decision D6 (log entry 10). -/
def Obligations.RregFrameReturnsTheRegisters : Prop :=
  ∀ (s : State) (r : Addr) (n : BitVec 5) (fill : List Byte) (rest : List Op), s.proto = .idle → s.queue = [] →
    fill.length = n.toNat + 1 → (∀ b ∈ fill, b = 0x00 ∨ b = 0x01) → s.pending = clocks (rregFrame r n fill) ++ rest →
    ∃ t, runSteps (n.toNat + 3) s = .next t ∧
      t.observed = s.observed ++ [.byte 0, .byte 0] ++
        (List.range (n.toNat + 1)).map (fun i => .byte (frameValue s r i)) ∧
      (∀ a, regGet t a =
        if s.statusSim = true ∧ a = s.params.addrStatus ∧ accessed r (n.toNat + 1) a = true then simulatedStatus s
        else regGet s a) ∧
      t.ptr.toNat = finalPtr r (n.toNat + 1) ∧
      t.statusReads =
        (if s.statusSim = true ∧ accessed r (n.toNat + 1) s.params.addrStatus = true then countedOnce s.statusReads
         else s.statusReads) ∧
      t = { s with regs := t.regs, ptr := t.ptr, statusReads := t.statusReads, pending := rest, observed := t.observed }

/-- 42_register_commands R85: a WREG frame of `n + 1` data bytes from `r`, from `Idle` with the queue empty: zeros out, the data at
ascending addresses up to 17, the rest discarded, every other register as before. -/
def Obligations.WregFrameStoresTheData : Prop :=
  ∀ (s : State) (r : Addr) (n : BitVec 5) (data : List Byte) (rest : List Op), s.proto = .idle → s.queue = [] →
    data.length = n.toNat + 1 → s.pending = clocks (wregFrame r n data) ++ rest →
    ∃ t, runSteps (n.toNat + 3) s = .next t ∧
      t.observed = s.observed ++ List.replicate (n.toNat + 3) (.byte 0) ∧
      (∀ a, regGet t a = if accessed r (n.toNat + 1) a = true then data.getD (a.toNat - r.toNat) 0 else regGet s a) ∧
      t.ptr.toNat = finalPtr r (n.toNat + 1) ∧
      t = { s with regs := t.regs, ptr := t.ptr, pending := rest, observed := t.observed }

/-- 42_register_commands R86: a single-register write of `v` and a single-register read return `v` at every address, except
STATUS with the simulation on, where the busy bit is the simulation's (decisions D3 and D10, log entries 2 and 9). That the
read-out ends in `Idle` is decision D6 (log entry 10). -/
def Obligations.WriteThenReadReturnsTheValue : Prop :=
  ∀ (s : State) (a : Addr) (v : Byte) (rest : List Op), s.proto = .idle → s.queue = [] → a.toNat < 18 →
    s.pending = clocks (wregFrame a 0 [v] ++ rregFrame a 0 [0x00]) ++ rest →
    ∃ t, runSteps 6 s = .next t ∧ t.pending = rest ∧ t.proto = .idle ∧ t.queue = [] ∧
      t.observed = s.observed ++
        ([0, 0, 0, 0, 0,
          if s.statusSim = true ∧ a = s.params.addrStatus then
            (if s.statusReads < 3 then v ||| s.params.busyMask else v &&& ~~~s.params.busyMask)
          else v] : List Byte).map .byte

/-- 42_register_commands R87 and 70_reset_and_hazards R122: in the middle of a write, and before a count byte, no byte value is a
command. In a write every `clock` completes, stores its byte at a valid pointer (discards it at an invalid one) and counts down;
before a count byte every `clock` completes and starts the transfer, and touches no register and not the pointer. Both serve the
queue's oldest byte and enqueue nothing. -/
def Obligations.NoByteCancelsAWriteOrACount : Prop :=
  ∀ (s : State) (b : Byte),
    (∀ k, s.proto = .writing k → 0 < k →
      ∃ t, clock b s = .next t ∧
        (∀ a, regGet t a = if a = s.ptr ∧ s.ptr.toNat < 18 then b else regGet s a) ∧
        t = { s with
          regs := t.regs, ptr := if s.ptr.toNat < 18 then s.ptr + 1 else s.ptr,
          proto := if k = 1 then .idle else .writing (k - 1), queue := s.queue.tail,
          observed := s.observed ++ [.byte (s.queue.headD 0)] }) ∧
    (∀ w, s.proto = .awaitCount w →
      clock b s = .next { s with
        proto := if w then .writing ((b &&& 0x1F) + 1) else .reading ((b &&& 0x1F) + 1), queue := s.queue.tail,
        observed := s.observed ++ [.byte (s.queue.headD 0)] })

/-- 70_reset_and_hazards R123: a data byte written to INPMUX in one cycle selects the reading of an RDATA in the next. -/
def Obligations.WriteToInpmuxIsUsedByTheNextRdata : Prop :=
  ∀ (s : State) (d : Byte) (x : BitVec 1) (rest : List Op), s.params.queueDepth = none → s.proto = .writing 1 →
    s.ptr = s.params.addrInpmux → s.ptr.toNat < 18 → ∀ h : (d.extractLsb' 4 4).toNat < 12,
    s.pending = .clock d :: .clock (encode (.rdata x)) :: rest →
    ∃ t, runSteps 2 s = .next t ∧ t.pending = rest ∧
      t.queue = s.queue.tail.tail ++
        [(s.readings[(d.extractLsb' 4 4).toNat]).extractLsb' 8 8, (s.readings[(d.extractLsb' 4 4).toNat]).extractLsb' 0 8]

/-! ### 10_state and 20_memory: registers, queue, readings -/

/-- `RegGet` and `RegSet` (10_state R14, R15): the 18 backed addresses read and store all 8 bits; 18..31 read 0 and discard. -/
def Obligations.VoidAddressesReadZeroAndDiscardWrites : Prop :=
  ∀ (s : State) (a : Addr) (v : Byte),
    (∀ h : a.toNat < 18, regGet s a = s.regs[a.toNat] ∧ regSet s a v = { s with regs := s.regs.set a.toNat v }) ∧
    (18 ≤ a.toNat → regGet s a = 0 ∧ regSet s a v = s)

/-- The registers are "mutated by WREG command processing and by ProtocolEngine status-bit simulation" (10_state R13) and by
nothing else within a `clock`. -/
def Obligations.RegistersChangeOnlyByDataBytesAndStatusSimulation : Prop :=
  ∀ (s t : State) (b : Byte) (a : Addr), clock b s = .next t → regGet t a ≠ regGet s a →
    a = s.ptr ∧ a.toNat < 18 ∧
    ((∃ k, s.proto = .writing k ∧ 0 < k ∧ regGet t a = b) ∨
      (s.statusSim = true ∧ a = s.params.addrStatus ∧ s.queue = [] ∧ (∃ k, s.proto = .reading k ∧ 0 < k) ∧
        regGet t a &&& ~~~s.params.busyMask = regGet s a &&& ~~~s.params.busyMask))

/-- No instruction changes the readings, the generator, the mode, the parameters, the count of STATUS reads or the model's two
lists; only the four register-command rows change `ptr` or `state`, and only WDATA changes a register. -/
def Obligations.InstructionFrame : Prop :=
  ∀ (i : Instr) (s t : State), exec i s = .next t →
    t.readings = s.readings ∧ t.gen = s.gen ∧ t.statusSim = s.statusSim ∧ t.params = s.params ∧
    t.statusReads = s.statusReads ∧ t.pending = s.pending ∧ t.observed = s.observed ∧
    ((∀ d, i ≠ .wdata d) → t.regs = s.regs) ∧
    ((∀ r, i ≠ .rreg r) → (∀ r, i ≠ .wreg r) → (∀ d, i ≠ .wdata d) → t.ptr = s.ptr) ∧
    ((∀ r, i ≠ .rreg r) → (∀ r, i ≠ .wreg r) → (∀ d, i ≠ .wdata d) → (∀ hi n, i ≠ .count hi n) → t.proto = s.proto) ∧
    ((∀ x, i ≠ .rdata x) → t.queue = s.queue ∧ t.draws = s.draws)

/-- 43_sequencer R97 and 10_state R26: within a reset period the readings and the generator are constant, and nothing changes
the mode: no `clock` does. -/
def Obligations.ClockKeepsReadingsGeneratorAndMode : Prop :=
  ∀ (s t : State) (b : Byte), clock b s = .next t →
    t.readings = s.readings ∧ t.gen = s.gen ∧ t.statusSim = s.statusSim ∧ t.params = s.params

/-- `status_sim` (10_state R26): off by default, and no command and no reset changes it. -/
def Obligations.ModeIsOffByDefaultAndNeverChanges : Prop :=
  State.reset.statusSim = false ∧ ∀ s t : State, step s = .next t → t.statusSim = s.statusSim

/-- 20_memory R47. The first clause, of every step: a `clock` takes the queue's oldest byte off and appends the two bytes of an
RDATA, if its byte is one; only a reset discards bytes ("unless a `reset` empties the queue first"); nothing else touches the
queue, so no byte comes back. The second: with the unbounded queue the bytes in the queue are the next outputs, in order, one per
cycle, ahead of any register byte, whatever bytes are sent meanwhile. -/
def Obligations.QueuedBytesComeOutOnceAndInOrder : Prop :=
  (∀ s t : State, step s = .next t →
    match s.pending with
    | [] => t.queue = s.queue
    | .snapshot _ :: _ => t.queue = s.queue
    | .reset :: _ => t.queue = []
    | .clock b :: _ =>
      t.queue = s.queue.tail ++
        (if ∃ x, instrAt (phase1 s).2 b = .rdata x then
          [(readingSelect (phase1 s).2).1.extractLsb' 8 8, (readingSelect (phase1 s).2).1.extractLsb' 0 8]
        else [])) ∧
  ∀ (s : State) (bs : List Byte) (rest : List Op), s.params.queueDepth = none → bs.length = s.queue.length →
    s.pending = clocks bs ++ rest →
    ∃ t, runSteps bs.length s = .next t ∧ t.pending = rest ∧ t.observed = s.observed ++ s.queue.map .byte

/-- 20_memory R43: while INPMUX holds the same value and no reset occurs, every RDATA enqueues the same two bytes, however many
operations stand between. For an index of 12..15 taken as a draw (decision D5, log entry 4) nothing is claimed. -/
def Obligations.RdataIsIdempotentWithinAResetPeriod : Prop :=
  ∀ (s t s' t' : State) (n : Nat) (x y : BitVec 1), (s.pending.take n).all (fun op => !op.isReset) = true →
    runSteps n s = .next t → regGet t t.params.addrInpmux = regGet s s.params.addrInpmux →
    ((channelIndex s).toNat < 12 ∨ ∃ v, s.params.hiIndexReading = .fixed v) →
    exec (.rdata x) s = .next s' → exec (.rdata y) t = .next t' →
    ∃ v : Reading, s'.queue = s.queue ++ [v.extractLsb' 8 8, v.extractLsb' 0 8] ∧
      t'.queue = t.queue ++ [v.extractLsb' 8 8, v.extractLsb' 0 8]

/-- The default table (10_state R13), for every admissible choice of the eight addresses. -/
def Obligations.DefaultTable : Prop :=
  ∀ p : Params, p.wf = true →
    regDefault p p.addrId = 0x04 ∧ regDefault p p.addrStatus = 0x80 ∧ regDefault p p.addrInpmux = 0x01 ∧
    regDefault p p.addrDatarate = 0x14 ∧ regDefault p p.addrRef = 0x10 ∧ regDefault p p.addrIdacMux = 0xFF ∧
    regDefault p p.addrSys = 0x10 ∧ regDefault p p.addrFscal1 = 0x40 ∧
    ∀ a, a ∉ p.addrs → regDefault p a = 0x00

/-! ### 43_sequencer -/

/-- `rotl16` bit by bit and `GenNext` (43_sequencer R89, R93): the value returned is the state after the update. That the sum
wraps modulo 65536 is the spec's inference (R90; log entry 13). -/
def Obligations.GenNextRotatesAndAddsSeven : Prop :=
  (∀ (g : Reading) (i : Nat), i < 16 → (rotl16 g).getLsbD i = g.getLsbD (if i = 0 then 15 else i - 1)) ∧
  (∀ s : State, genNext s = (rotl16 s.gen + 7, { s with gen := rotl16 s.gen + 7 }))

/-- 43_sequencer R92: the generator's step is a bijection on 16-bit states, and 0xFFF8 is its one fixed point. The wrap of the
addition is the spec's inference (R90; log entry 13). -/
def Obligations.GeneratorStepIsABijectionWithOneFixedPoint : Prop :=
  Function.Bijective genStep ∧ ∀ g : Reading, genStep g = g ↔ g = 0xFFF8

/-- 43_sequencer R95: in every state of every run, whatever the parameters, the mode and the operations, the generator and the
twelve readings are one of the four rows of its table, and a reset goes from a row to the next, the fourth to the first. The
first row at power-on is decision D7, the ascending fill decision D8 (log entries 6 and 7). -/
def Obligations.ReadingsFollowTheOrbitOfTheSeed : Prop :=
  ∀ s : State, Reachable s →
    ∃ j, j < 4 ∧ (s.gen, s.readings) = orbitRow j ∧
      ((resetBlock s).gen, (resetBlock s).readings) = orbitRow ((j + 1) % 4)

/-- The step lemma of 43_sequencer R95, R94 and R97: in every state, reachable or not, whose generator and readings are row `j` of
the table of reset periods, a step that takes a reset leaves the next row (after the fourth, the first), and every other step
leaves the row. The ascending fill is decision D8 (log entry 7). -/
def Obligations.EveryStepKeepsTheReadingsOnTheOrbit : Prop :=
  ∀ (s t : State) (j : Nat), j < 4 → (s.gen, s.readings) = orbitRow j → step s = .next t →
    (t.gen, t.readings) = orbitRow (if s.pending.head? = some .reset then (j + 1) % 4 else j)

/-- 43_sequencer R96: the readings of two consecutive reset periods differ, at every index. -/
def Obligations.ConsecutiveResetPeriodsDiffer : Prop :=
  ∀ (s t : State) (rest : List Op), Reachable s → s.pending = .reset :: rest → step s = .next t →
    ∀ (i : Nat) (h : i < 12), t.readings[i] ≠ s.readings[i]

/-- `read_channel_snapshot` (43_sequencer R98): the stored reading, and nothing else changes. The 0 from index 12 on is decision
D9 (log entry 8). -/
def Obligations.SnapshotReturnsTheReadingAndChangesNothing : Prop :=
  ∀ (s : State) (i : Nat) (rest : List Op), s.pending = .snapshot i :: rest →
    (∀ h : i < 12, step s = .next { s with pending := rest, observed := s.observed ++ [.reading s.readings[i]] }) ∧
    (12 ≤ i → step s = .next { s with pending := rest, observed := s.observed ++ [.reading 0] })

/-! ### 70_reset_and_hazards: reset, power-on, resynchronisation -/

/-- `reset()` (70_reset_and_hazards R114) in any state: the pointer, the counters, the queue and `state` cleared, every register at
its default, the readings regenerated from the generator as it stands, and nothing else changed: not the mode, and no re-seed. -/
def Obligations.ResetRestoresAllButTheGenerator : Prop :=
  ∀ (s : State) (rest : List Op), s.pending = .reset :: rest →
    ∃ t, step s = .next t ∧ (∀ a : Addr, a.toNat < 18 → regGet t a = regDefault s.params a) ∧
      t = { s with
        regs := t.regs, proto := .idle, ptr := 0, queue := [], gen := (regenerate s).gen,
        readings := (regenerate s).readings, statusReads := 0, pending := rest }

/-- `Regenerate` (43_sequencer R94), as a reset leaves it: the readings are the generator's next twelve values, and the generator
stands at the last of them. Their ascending order is decision D8 (log entry 7). -/
def Obligations.ResetDrawsTheNextTwelveReadings : Prop :=
  ∀ (s t : State) (rest : List Op), s.pending = .reset :: rest → step s = .next t →
    t.readings[0] = genStep s.gen ∧ (∀ (i : Nat) (h : i + 1 < 12), t.readings[i + 1] = genStep (t.readings[i]'(Nat.lt_of_succ_lt h))) ∧
    t.gen = t.readings[11]

/-- Power-on (70_reset_and_hazards R113, the "after power-on" column of 10_state R30), for every choice of the parameters and the
mode. That construction draws the first twelve values is decision D7, their order D8 (log entries 6 and 7). -/
def Obligations.PowerOnState : Prop :=
  ∀ (p : Params) (sim : Bool),
    (powerOn p sim).params = p ∧ (powerOn p sim).statusSim = sim ∧ (powerOn p sim).proto = .idle ∧
    (powerOn p sim).ptr = 0 ∧ (powerOn p sim).queue = [] ∧ (powerOn p sim).statusReads = 0 ∧
    ((powerOn p sim).gen, (powerOn p sim).readings) = orbitRow 0 ∧
    ∀ a : Addr, a.toNat < 18 → regGet (powerOn p sim) a = regDefault p a

/-- The reset state of the machine is what power-on leaves with the default parameters (00_scope R9, log entries 1 to 4) and the
mode off (00_scope R8). -/
def Obligations.ResetStateIsThePowerOnState : Prop := State.reset = powerOn Params.default false

/-- The invariant holds of the reset state. -/
def Obligations.InvariantHoldsAtReset : Prop := Inv State.reset

/-- The invariant holds at the start of every run: every admissible choice of parameters, both modes, all operations. -/
def Obligations.InvariantHoldsAtEveryPowerOn : Prop :=
  ∀ (p : Params) (sim : Bool) (ops : List Op), p.wf = true → Inv (startOf p sim ops)

/-- Every step keeps the invariant: admissible parameters, the ranges of 10_state R31, the queue within its bound, and
`gen = readings[11]` (43_sequencer R94, R97). `Reading(0)` is excluded by decision D6, the STATUS count saturates by decision D10,
the last reading is drawn last by decision D8 (log entries 10, 9, 7). -/
def Obligations.EveryStepKeepsTheInvariant : Prop :=
  ∀ s t : State, Inv s → step s = .next t → Inv t

/-- 10_state R31 of every state of every run: "invariants that hold after power-on and after every interface operation". That
`Reading(0)` is never left is decision D6 (log entry 10), the range of the STATUS count decision D10 (log entry 9). -/
def Obligations.EveryReachableStateIsInRange : Prop :=
  ∀ s : State, Reachable s → RangesHold s ∧ s.params.wf = true

/-- 70_reset_and_hazards R124: from any state in range with `q` bytes queued, `q + 32` bytes of 0x00 leave the block in `Idle` with
an empty queue. That a read-out ends in `Idle` is decision D6 (log entry 10). -/
def Obligations.ZeroBytesResynchronise : Prop :=
  ∀ (s : State) (rest : List Op), RangesHold s →
    s.pending = clocks (List.replicate (s.queue.length + 32) 0x00) ++ rest →
    ∃ t, runSteps (s.queue.length + 32) s = .next t ∧ t.proto = .idle ∧ t.queue = [] ∧ t.pending = rest
end

