-- ==== Sys2Proof/Laws/State.lean ====
section
/-! SUPPORT. One lemma per field per update of the state: no later proof unfolds a record update. -/

namespace Sys2Proof.Machine

variable (s : State)

/-! setRegs -/

@[simp] theorem State.setRegs_params (v : Vector Byte Config.nReg) : (s.setRegs v).params = s.params := rfl
@[simp] theorem State.setRegs_statusSim (v : Vector Byte Config.nReg) : (s.setRegs v).statusSim = s.statusSim := rfl
@[simp] theorem State.setRegs_regs (v : Vector Byte Config.nReg) : (s.setRegs v).regs = v := rfl
@[simp] theorem State.setRegs_proto (v : Vector Byte Config.nReg) : (s.setRegs v).proto = s.proto := rfl
@[simp] theorem State.setRegs_ptr (v : Vector Byte Config.nReg) : (s.setRegs v).ptr = s.ptr := rfl
@[simp] theorem State.setRegs_queue (v : Vector Byte Config.nReg) : (s.setRegs v).queue = s.queue := rfl
@[simp] theorem State.setRegs_gen (v : Vector Byte Config.nReg) : (s.setRegs v).gen = s.gen := rfl
@[simp] theorem State.setRegs_readings (v : Vector Byte Config.nReg) : (s.setRegs v).readings = s.readings := rfl
@[simp] theorem State.setRegs_statusReads (v : Vector Byte Config.nReg) : (s.setRegs v).statusReads = s.statusReads := rfl
@[simp] theorem State.setRegs_draws (v : Vector Byte Config.nReg) : (s.setRegs v).draws = s.draws := rfl
@[simp] theorem State.setRegs_pending (v : Vector Byte Config.nReg) : (s.setRegs v).pending = s.pending := rfl
@[simp] theorem State.setRegs_observed (v : Vector Byte Config.nReg) : (s.setRegs v).observed = s.observed := rfl

/-! setProto -/

@[simp] theorem State.setProto_params (p : Proto) : (s.setProto p).params = s.params := rfl
@[simp] theorem State.setProto_statusSim (p : Proto) : (s.setProto p).statusSim = s.statusSim := rfl
@[simp] theorem State.setProto_regs (p : Proto) : (s.setProto p).regs = s.regs := rfl
@[simp] theorem State.setProto_proto (p : Proto) : (s.setProto p).proto = p := rfl
@[simp] theorem State.setProto_ptr (p : Proto) : (s.setProto p).ptr = s.ptr := rfl
@[simp] theorem State.setProto_queue (p : Proto) : (s.setProto p).queue = s.queue := rfl
@[simp] theorem State.setProto_gen (p : Proto) : (s.setProto p).gen = s.gen := rfl
@[simp] theorem State.setProto_readings (p : Proto) : (s.setProto p).readings = s.readings := rfl
@[simp] theorem State.setProto_statusReads (p : Proto) : (s.setProto p).statusReads = s.statusReads := rfl
@[simp] theorem State.setProto_draws (p : Proto) : (s.setProto p).draws = s.draws := rfl
@[simp] theorem State.setProto_pending (p : Proto) : (s.setProto p).pending = s.pending := rfl
@[simp] theorem State.setProto_observed (p : Proto) : (s.setProto p).observed = s.observed := rfl

/-! setPtr -/

@[simp] theorem State.setPtr_params (a : Addr) : (s.setPtr a).params = s.params := rfl
@[simp] theorem State.setPtr_statusSim (a : Addr) : (s.setPtr a).statusSim = s.statusSim := rfl
@[simp] theorem State.setPtr_regs (a : Addr) : (s.setPtr a).regs = s.regs := rfl
@[simp] theorem State.setPtr_proto (a : Addr) : (s.setPtr a).proto = s.proto := rfl
@[simp] theorem State.setPtr_ptr (a : Addr) : (s.setPtr a).ptr = a := rfl
@[simp] theorem State.setPtr_queue (a : Addr) : (s.setPtr a).queue = s.queue := rfl
@[simp] theorem State.setPtr_gen (a : Addr) : (s.setPtr a).gen = s.gen := rfl
@[simp] theorem State.setPtr_readings (a : Addr) : (s.setPtr a).readings = s.readings := rfl
@[simp] theorem State.setPtr_statusReads (a : Addr) : (s.setPtr a).statusReads = s.statusReads := rfl
@[simp] theorem State.setPtr_draws (a : Addr) : (s.setPtr a).draws = s.draws := rfl
@[simp] theorem State.setPtr_pending (a : Addr) : (s.setPtr a).pending = s.pending := rfl
@[simp] theorem State.setPtr_observed (a : Addr) : (s.setPtr a).observed = s.observed := rfl

/-! setQueue -/

@[simp] theorem State.setQueue_params (q : List Byte) : (s.setQueue q).params = s.params := rfl
@[simp] theorem State.setQueue_statusSim (q : List Byte) : (s.setQueue q).statusSim = s.statusSim := rfl
@[simp] theorem State.setQueue_regs (q : List Byte) : (s.setQueue q).regs = s.regs := rfl
@[simp] theorem State.setQueue_proto (q : List Byte) : (s.setQueue q).proto = s.proto := rfl
@[simp] theorem State.setQueue_ptr (q : List Byte) : (s.setQueue q).ptr = s.ptr := rfl
@[simp] theorem State.setQueue_queue (q : List Byte) : (s.setQueue q).queue = q := rfl
@[simp] theorem State.setQueue_gen (q : List Byte) : (s.setQueue q).gen = s.gen := rfl
@[simp] theorem State.setQueue_readings (q : List Byte) : (s.setQueue q).readings = s.readings := rfl
@[simp] theorem State.setQueue_statusReads (q : List Byte) : (s.setQueue q).statusReads = s.statusReads := rfl
@[simp] theorem State.setQueue_draws (q : List Byte) : (s.setQueue q).draws = s.draws := rfl
@[simp] theorem State.setQueue_pending (q : List Byte) : (s.setQueue q).pending = s.pending := rfl
@[simp] theorem State.setQueue_observed (q : List Byte) : (s.setQueue q).observed = s.observed := rfl

/-! setGen -/

@[simp] theorem State.setGen_params (g : Reading) : (s.setGen g).params = s.params := rfl
@[simp] theorem State.setGen_statusSim (g : Reading) : (s.setGen g).statusSim = s.statusSim := rfl
@[simp] theorem State.setGen_regs (g : Reading) : (s.setGen g).regs = s.regs := rfl
@[simp] theorem State.setGen_proto (g : Reading) : (s.setGen g).proto = s.proto := rfl
@[simp] theorem State.setGen_ptr (g : Reading) : (s.setGen g).ptr = s.ptr := rfl
@[simp] theorem State.setGen_queue (g : Reading) : (s.setGen g).queue = s.queue := rfl
@[simp] theorem State.setGen_gen (g : Reading) : (s.setGen g).gen = g := rfl
@[simp] theorem State.setGen_readings (g : Reading) : (s.setGen g).readings = s.readings := rfl
@[simp] theorem State.setGen_statusReads (g : Reading) : (s.setGen g).statusReads = s.statusReads := rfl
@[simp] theorem State.setGen_draws (g : Reading) : (s.setGen g).draws = s.draws := rfl
@[simp] theorem State.setGen_pending (g : Reading) : (s.setGen g).pending = s.pending := rfl
@[simp] theorem State.setGen_observed (g : Reading) : (s.setGen g).observed = s.observed := rfl

/-! setReadings -/

@[simp] theorem State.setReadings_params (v : Vector Reading Config.nChan) : (s.setReadings v).params = s.params := rfl
@[simp] theorem State.setReadings_statusSim (v : Vector Reading Config.nChan) : (s.setReadings v).statusSim = s.statusSim := rfl
@[simp] theorem State.setReadings_regs (v : Vector Reading Config.nChan) : (s.setReadings v).regs = s.regs := rfl
@[simp] theorem State.setReadings_proto (v : Vector Reading Config.nChan) : (s.setReadings v).proto = s.proto := rfl
@[simp] theorem State.setReadings_ptr (v : Vector Reading Config.nChan) : (s.setReadings v).ptr = s.ptr := rfl
@[simp] theorem State.setReadings_queue (v : Vector Reading Config.nChan) : (s.setReadings v).queue = s.queue := rfl
@[simp] theorem State.setReadings_gen (v : Vector Reading Config.nChan) : (s.setReadings v).gen = s.gen := rfl
@[simp] theorem State.setReadings_readings (v : Vector Reading Config.nChan) : (s.setReadings v).readings = v := rfl
@[simp] theorem State.setReadings_statusReads (v : Vector Reading Config.nChan) : (s.setReadings v).statusReads = s.statusReads := rfl
@[simp] theorem State.setReadings_draws (v : Vector Reading Config.nChan) : (s.setReadings v).draws = s.draws := rfl
@[simp] theorem State.setReadings_pending (v : Vector Reading Config.nChan) : (s.setReadings v).pending = s.pending := rfl
@[simp] theorem State.setReadings_observed (v : Vector Reading Config.nChan) : (s.setReadings v).observed = s.observed := rfl

/-! setStatusReads -/

@[simp] theorem State.setStatusReads_params (n : Nat) : (s.setStatusReads n).params = s.params := rfl
@[simp] theorem State.setStatusReads_statusSim (n : Nat) : (s.setStatusReads n).statusSim = s.statusSim := rfl
@[simp] theorem State.setStatusReads_regs (n : Nat) : (s.setStatusReads n).regs = s.regs := rfl
@[simp] theorem State.setStatusReads_proto (n : Nat) : (s.setStatusReads n).proto = s.proto := rfl
@[simp] theorem State.setStatusReads_ptr (n : Nat) : (s.setStatusReads n).ptr = s.ptr := rfl
@[simp] theorem State.setStatusReads_queue (n : Nat) : (s.setStatusReads n).queue = s.queue := rfl
@[simp] theorem State.setStatusReads_gen (n : Nat) : (s.setStatusReads n).gen = s.gen := rfl
@[simp] theorem State.setStatusReads_readings (n : Nat) : (s.setStatusReads n).readings = s.readings := rfl
@[simp] theorem State.setStatusReads_statusReads (n : Nat) : (s.setStatusReads n).statusReads = n := rfl
@[simp] theorem State.setStatusReads_draws (n : Nat) : (s.setStatusReads n).draws = s.draws := rfl
@[simp] theorem State.setStatusReads_pending (n : Nat) : (s.setStatusReads n).pending = s.pending := rfl
@[simp] theorem State.setStatusReads_observed (n : Nat) : (s.setStatusReads n).observed = s.observed := rfl

/-! setDraws -/

@[simp] theorem State.setDraws_params (n : Nat) : (s.setDraws n).params = s.params := rfl
@[simp] theorem State.setDraws_statusSim (n : Nat) : (s.setDraws n).statusSim = s.statusSim := rfl
@[simp] theorem State.setDraws_regs (n : Nat) : (s.setDraws n).regs = s.regs := rfl
@[simp] theorem State.setDraws_proto (n : Nat) : (s.setDraws n).proto = s.proto := rfl
@[simp] theorem State.setDraws_ptr (n : Nat) : (s.setDraws n).ptr = s.ptr := rfl
@[simp] theorem State.setDraws_queue (n : Nat) : (s.setDraws n).queue = s.queue := rfl
@[simp] theorem State.setDraws_gen (n : Nat) : (s.setDraws n).gen = s.gen := rfl
@[simp] theorem State.setDraws_readings (n : Nat) : (s.setDraws n).readings = s.readings := rfl
@[simp] theorem State.setDraws_statusReads (n : Nat) : (s.setDraws n).statusReads = s.statusReads := rfl
@[simp] theorem State.setDraws_draws (n : Nat) : (s.setDraws n).draws = n := rfl
@[simp] theorem State.setDraws_pending (n : Nat) : (s.setDraws n).pending = s.pending := rfl
@[simp] theorem State.setDraws_observed (n : Nat) : (s.setDraws n).observed = s.observed := rfl

/-! setPending -/

@[simp] theorem State.setPending_params (ops : List Op) : (s.setPending ops).params = s.params := rfl
@[simp] theorem State.setPending_statusSim (ops : List Op) : (s.setPending ops).statusSim = s.statusSim := rfl
@[simp] theorem State.setPending_regs (ops : List Op) : (s.setPending ops).regs = s.regs := rfl
@[simp] theorem State.setPending_proto (ops : List Op) : (s.setPending ops).proto = s.proto := rfl
@[simp] theorem State.setPending_ptr (ops : List Op) : (s.setPending ops).ptr = s.ptr := rfl
@[simp] theorem State.setPending_queue (ops : List Op) : (s.setPending ops).queue = s.queue := rfl
@[simp] theorem State.setPending_gen (ops : List Op) : (s.setPending ops).gen = s.gen := rfl
@[simp] theorem State.setPending_readings (ops : List Op) : (s.setPending ops).readings = s.readings := rfl
@[simp] theorem State.setPending_statusReads (ops : List Op) : (s.setPending ops).statusReads = s.statusReads := rfl
@[simp] theorem State.setPending_draws (ops : List Op) : (s.setPending ops).draws = s.draws := rfl
@[simp] theorem State.setPending_pending (ops : List Op) : (s.setPending ops).pending = ops := rfl
@[simp] theorem State.setPending_observed (ops : List Op) : (s.setPending ops).observed = s.observed := rfl

/-! observe -/

@[simp] theorem State.observe_params (r : Result) : (s.observe r).params = s.params := rfl
@[simp] theorem State.observe_statusSim (r : Result) : (s.observe r).statusSim = s.statusSim := rfl
@[simp] theorem State.observe_regs (r : Result) : (s.observe r).regs = s.regs := rfl
@[simp] theorem State.observe_proto (r : Result) : (s.observe r).proto = s.proto := rfl
@[simp] theorem State.observe_ptr (r : Result) : (s.observe r).ptr = s.ptr := rfl
@[simp] theorem State.observe_queue (r : Result) : (s.observe r).queue = s.queue := rfl
@[simp] theorem State.observe_gen (r : Result) : (s.observe r).gen = s.gen := rfl
@[simp] theorem State.observe_readings (r : Result) : (s.observe r).readings = s.readings := rfl
@[simp] theorem State.observe_statusReads (r : Result) : (s.observe r).statusReads = s.statusReads := rfl
@[simp] theorem State.observe_draws (r : Result) : (s.observe r).draws = s.draws := rfl
@[simp] theorem State.observe_pending (r : Result) : (s.observe r).pending = s.pending := rfl
@[simp] theorem State.observe_observed (r : Result) : (s.observe r).observed = s.observed ++ [r] := rfl

/-! advancePtr -/

@[simp] theorem State.advancePtr_params : s.advancePtr.params = s.params := rfl
@[simp] theorem State.advancePtr_statusSim : s.advancePtr.statusSim = s.statusSim := rfl
@[simp] theorem State.advancePtr_regs : s.advancePtr.regs = s.regs := rfl
@[simp] theorem State.advancePtr_proto : s.advancePtr.proto = s.proto := rfl
@[simp] theorem State.advancePtr_ptr : s.advancePtr.ptr = s.ptr + 1 := rfl
@[simp] theorem State.advancePtr_queue : s.advancePtr.queue = s.queue := rfl
@[simp] theorem State.advancePtr_gen : s.advancePtr.gen = s.gen := rfl
@[simp] theorem State.advancePtr_readings : s.advancePtr.readings = s.readings := rfl
@[simp] theorem State.advancePtr_statusReads : s.advancePtr.statusReads = s.statusReads := rfl
@[simp] theorem State.advancePtr_draws : s.advancePtr.draws = s.draws := rfl
@[simp] theorem State.advancePtr_pending : s.advancePtr.pending = s.pending := rfl
@[simp] theorem State.advancePtr_observed : s.advancePtr.observed = s.observed := rfl

end Sys2Proof.Machine
end

