-- ==== Sys2Proof/Laws/Ops.lean ====
section
/-! SUPPORT. What the shared operations do: the register file, the queue, `thenDo`, the decode context, the selected
reading. -/

namespace Sys2Proof.Machine

/-! ### The register file -/

theorem regGet_void (s : State) {a : Addr} (h : 18 ≤ a.toNat) : regGet s a = 0 := by
  simp [regGet, Nat.not_lt.mpr h]

theorem regGet_congr {s t : State} (h : t.regs = s.regs) (a : Addr) : regGet t a = regGet s a := by
  simp [regGet, h]

theorem regSet_void (s : State) {a : Addr} (v : Byte) (h : 18 ≤ a.toNat) : regSet s a v = s := by
  simp [regSet, Nat.not_lt.mpr h]

/-- A write changes the register file and nothing else. -/
theorem regSet_eq_setRegs (s : State) (a : Addr) (v : Byte) : regSet s a v = s.setRegs (regSet s a v).regs := by
  unfold regSet; split <;> rfl

@[simp] theorem regSet_params (s : State) (a : Addr) (v : Byte) : (regSet s a v).params = s.params := by
  rw [regSet_eq_setRegs]; rfl
@[simp] theorem regSet_statusSim (s : State) (a : Addr) (v : Byte) : (regSet s a v).statusSim = s.statusSim := by
  rw [regSet_eq_setRegs]; rfl
@[simp] theorem regSet_proto (s : State) (a : Addr) (v : Byte) : (regSet s a v).proto = s.proto := by
  rw [regSet_eq_setRegs]; rfl
@[simp] theorem regSet_ptr (s : State) (a : Addr) (v : Byte) : (regSet s a v).ptr = s.ptr := by
  rw [regSet_eq_setRegs]; rfl
@[simp] theorem regSet_queue (s : State) (a : Addr) (v : Byte) : (regSet s a v).queue = s.queue := by
  rw [regSet_eq_setRegs]; rfl
@[simp] theorem regSet_gen (s : State) (a : Addr) (v : Byte) : (regSet s a v).gen = s.gen := by
  rw [regSet_eq_setRegs]; rfl
@[simp] theorem regSet_readings (s : State) (a : Addr) (v : Byte) : (regSet s a v).readings = s.readings := by
  rw [regSet_eq_setRegs]; rfl
@[simp] theorem regSet_statusReads (s : State) (a : Addr) (v : Byte) : (regSet s a v).statusReads = s.statusReads := by
  rw [regSet_eq_setRegs]; rfl
@[simp] theorem regSet_draws (s : State) (a : Addr) (v : Byte) : (regSet s a v).draws = s.draws := by
  rw [regSet_eq_setRegs]; rfl
@[simp] theorem regSet_pending (s : State) (a : Addr) (v : Byte) : (regSet s a v).pending = s.pending := by
  rw [regSet_eq_setRegs]; rfl
@[simp] theorem regSet_observed (s : State) (a : Addr) (v : Byte) : (regSet s a v).observed = s.observed := by
  rw [regSet_eq_setRegs]; rfl

/-- What the environment still invokes plays no part in a register write. -/
theorem regSet_setPending (s : State) (ops : List Op) (a : Addr) (v : Byte) :
    regSet (s.setPending ops) a v = (regSet s a v).setPending ops := by
  unfold regSet; split <;> rfl

/-- Read after write: the written address gives the value where it is backed; every other address reads as before. -/
theorem regGet_regSet (s : State) (a b : Addr) (v : Byte) :
    regGet (regSet s a v) b = if b = a ∧ a.toNat < Config.nReg then v else regGet s b := by
  unfold regSet
  split
  · next h =>
    unfold regGet
    by_cases hb : b.toNat < Config.nReg
    · by_cases e : a.toNat = b.toNat
      · simp [BitVec.eq_of_toNat_eq e, hb]
      · have e' : b ≠ a := fun h' => e (h' ▸ rfl)
        simp [hb, e', e]
    · have e' : b ≠ a := fun h' => hb (h' ▸ h)
      simp [hb, e']
  · next h => simp [h]

/-! ### The queue -/

@[simp] theorem hasRoom_unbounded {s : State} (h : s.params.queueDepth = none) : hasRoom s = true := by
  simp [hasRoom, h]

/-- Enqueue answers the byte at the tail, where there is room, and the refusal elsewhere. -/
theorem enqueue_cases (b : Byte) (s : State) :
    (hasRoom s = true ∧ enqueue b s = .next (s.setQueue (s.queue ++ [b]))) ∨
      (hasRoom s = false ∧ enqueue b s = .refused .queueFull) := by
  unfold enqueue; cases hasRoom s <;> simp

theorem enqueue_next {b : Byte} {s t : State} (h : enqueue b s = .next t) :
    hasRoom s = true ∧ t = s.setQueue (s.queue ++ [b]) := by
  unfold enqueue at h
  split at h
  · next hr => exact ⟨hr, by cases h; rfl⟩
  · cases h

@[simp] theorem thenDo_next (s : State) (f : State → Answer) : thenDo (.next s) f = f s := rfl
@[simp] theorem thenDo_refused (r : Refusal) (f : State → Answer) : thenDo (.refused r) f = .refused r := rfl

/-- `thenDo` answers a next state only through one of the first part. -/
theorem thenDo_eq_next {o : Answer} {f : State → Answer} {t : State} (h : thenDo o f = .next t) :
    ∃ s, o = .next s ∧ f s = .next t := by
  cases o with
  | next s => exact ⟨s, rfl, h⟩
  | fault r => cases r
  | refused r => cases h

/-! ### The decode context -/

theorem contextOf_writing {k : Byte} (h : 0 < k) : contextOf (.writing k) = .data := if_pos h

theorem contextOf_eq_count {p : Proto} (h : contextOf p = .count) : ∃ w, p = .awaitCount w := by
  cases p with
  | idle => cases h
  | awaitCount w => exact ⟨w, rfl⟩
  | reading k => cases h
  | writing k =>
    by_cases hk : 0 < k
    · rw [contextOf_writing hk] at h; cases h
    · rw [contextOf, if_neg hk] at h; cases h

theorem contextOf_eq_data {p : Proto} (h : contextOf p = .data) : ∃ k, 0 < k ∧ p = .writing k := by
  cases p with
  | idle => cases h
  | awaitCount w => cases h
  | reading k => cases h
  | writing k =>
    by_cases hk : 0 < k
    · exact ⟨k, hk, rfl⟩
    · rw [contextOf, if_neg hk] at h; cases h

theorem readingOrIdle_pos {k : Byte} (h : 0 < k) : readingOrIdle k = .reading k := if_pos h
@[simp] theorem readingOrIdle_zero : readingOrIdle 0 = .idle := by decide
theorem writingOrIdle_pos {k : Byte} (h : 0 < k) : writingOrIdle k = .writing k := if_pos h
@[simp] theorem writingOrIdle_zero : writingOrIdle 0 = .idle := by decide

theorem countOf_toNat (n : BitVec 5) : (countOf n).toNat = n.toNat + 1 := by
  have h := n.isLt
  simp [countOf, BitVec.toNat_add, BitVec.toNat_setWidth]
  omega

/-! ### A reading into the queue -/

theorem hasRoom_of {s : State} {n : Nat} (h : ∀ d, s.params.queueDepth = some d → s.queue.length + n ≤ d)
    (hn : 0 < n) : hasRoom s = true := by
  unfold hasRoom
  split
  · rfl
  · next d hd => have := h d hd; simp; omega

/-- A reading that fits: its two bytes join the queue, most significant first. -/
theorem enqueueReading_next {v : Reading} {s t : State} (h : enqueueReading v s = .next t) :
    t = s.setQueue (s.queue ++ [msb v, lsb v]) := by
  obtain ⟨u, h1, h2⟩ := thenDo_eq_next h
  obtain ⟨-, rfl⟩ := enqueue_next h1
  obtain ⟨-, rfl⟩ := enqueue_next h2
  simp [State.ext_iff]

theorem enqueueReading_fits (v : Reading) {s : State}
    (h : ∀ d, s.params.queueDepth = some d → s.queue.length + 2 ≤ d) :
    enqueueReading v s = .next (s.setQueue (s.queue ++ [msb v, lsb v])) := by
  have h1 : enqueue (msb v) s = .next (s.setQueue (s.queue ++ [msb v])) := if_pos (hasRoom_of h (by omega))
  have h2 : hasRoom (s.setQueue (s.queue ++ [msb v])) = true :=
    hasRoom_of (n := 1) (fun d hd => by have := h d hd; simp; omega) (by omega)
  have h3 : enqueueReading v s = enqueue (lsb v) (s.setQueue (s.queue ++ [msb v])) := by rw [enqueueReading, h1]; rfl
  rw [h3, enqueue, if_pos h2]
  simp [State.ext_iff]

theorem enqueueReading_cases (v : Reading) (s : State) :
    (∃ t, enqueueReading v s = .next t) ∨ enqueueReading v s = .refused .queueFull := by
  unfold enqueueReading
  obtain ⟨-, h⟩ | ⟨-, h⟩ := enqueue_cases (msb v) s
  · rw [h, thenDo_next]
    obtain ⟨-, h'⟩ | ⟨-, h'⟩ := enqueue_cases (lsb v) (s.setQueue (s.queue ++ [msb v]))
    · exact .inl ⟨_, h'⟩
    · exact .inr h'
  · exact .inr (by rw [h]; rfl)

/-! ### The selected reading -/

/-- The select of an index below 12: the stored reading, and nothing changes. -/
theorem readingSelect_backed (s : State) (h : (channelIndex s).toNat < Config.nChan) :
    readingSelect s = (s.readings[(channelIndex s).toNat], s) := by
  simp [readingSelect, h]

theorem readingSelect_high (s : State) (h : 12 ≤ (channelIndex s).toNat) : readingSelect s = hiReading s := by
  simp [readingSelect, Nat.not_lt.mpr h]

/-- The select changes nothing but the model's own count of draws. -/
theorem readingSelect_state (s : State) : (readingSelect s).2 = s.setDraws (readingSelect s).2.draws := by
  unfold readingSelect hiReading
  simp only
  split
  · rfl
  · split <;> rfl

@[simp] theorem readingSelect_params (s : State) : (readingSelect s).2.params = s.params := by rw [readingSelect_state]; rfl
@[simp] theorem readingSelect_statusSim (s : State) : (readingSelect s).2.statusSim = s.statusSim := by rw [readingSelect_state]; rfl
@[simp] theorem readingSelect_regs (s : State) : (readingSelect s).2.regs = s.regs := by rw [readingSelect_state]; rfl
@[simp] theorem readingSelect_proto (s : State) : (readingSelect s).2.proto = s.proto := by rw [readingSelect_state]; rfl
@[simp] theorem readingSelect_ptr (s : State) : (readingSelect s).2.ptr = s.ptr := by rw [readingSelect_state]; rfl
@[simp] theorem readingSelect_queue (s : State) : (readingSelect s).2.queue = s.queue := by rw [readingSelect_state]; rfl
@[simp] theorem readingSelect_gen (s : State) : (readingSelect s).2.gen = s.gen := by rw [readingSelect_state]; rfl
@[simp] theorem readingSelect_readings (s : State) : (readingSelect s).2.readings = s.readings := by rw [readingSelect_state]; rfl
@[simp] theorem readingSelect_statusReads (s : State) : (readingSelect s).2.statusReads = s.statusReads := by rw [readingSelect_state]; rfl
@[simp] theorem readingSelect_pending (s : State) : (readingSelect s).2.pending = s.pending := by rw [readingSelect_state]; rfl
@[simp] theorem readingSelect_observed (s : State) : (readingSelect s).2.observed = s.observed := by rw [readingSelect_state]; rfl

/-- What the environment still invokes plays no part in the select. -/
theorem readingSelect_setPending (s : State) (ops : List Op) :
    readingSelect (s.setPending ops) = ((readingSelect s).1, (readingSelect s).2.setPending ops) := by
  by_cases h : (channelIndex s).toNat < Config.nChan
  · rw [readingSelect_backed s h, readingSelect_backed (s.setPending ops) h]; rfl
  · have h' : 12 ≤ (channelIndex s).toNat := Nat.le_of_not_lt h
    rw [readingSelect_high s h', readingSelect_high (s.setPending ops) h']
    unfold hiReading
    rw [State.setPending_params]
    cases s.params.hiIndexReading <;> rfl

end Sys2Proof.Machine
end

