-- ==== Sys2Proof/Laws/Exec.lean ====
section
/-! SUPPORT. What each meaning can do, once: "if exec answers next t, then …". -/

namespace Sys2Proof.Machine

/-- RDATA that completes: the selected reading joins the queue, most significant byte first. -/
theorem execRdata_next (x : BitVec 1) {s t : State} (h : execRdata x s = .next t) :
    t = (readingSelect s).2.setQueue (s.queue ++ [msb (readingSelect s).1, lsb (readingSelect s).1]) := by
  rw [enqueueReading_next h, readingSelect_queue]

/-- RDATA never answers anything but a next state or the refusal of a full queue. -/
theorem execRdata_cases (x : BitVec 1) (s : State) :
    (∃ t, execRdata x s = .next t) ∨ execRdata x s = .refused .queueFull := enqueueReading_cases _ _

/-- RDATA completes where two more bytes fit. -/
theorem execRdata_fits (x : BitVec 1) {s : State}
    (h : ∀ d, s.params.queueDepth = some d → s.queue.length + 2 ≤ d) :
    execRdata x s =
      .next ((readingSelect s).2.setQueue (s.queue ++ [msb (readingSelect s).1, lsb (readingSelect s).1])) := by
  rw [execRdata, enqueueReading_fits _ (by simpa using h), readingSelect_queue]

/-- COUNT that completes: in `AwaitCount(w)`, and only the protocol state changes. -/
theorem execCount_next (hi : BitVec 3) {n : BitVec 5} {s t : State} (h : execCount hi n s = .next t) :
    ∃ w, s.proto = .awaitCount w ∧ t = s.setProto (if w then .writing (countOf n) else .reading (countOf n)) := by
  unfold execCount at h
  split at h
  · next hp => cases h; exact ⟨false, hp, rfl⟩
  · next hp => cases h; exact ⟨true, hp, rfl⟩
  · cases h
  · cases h
  · cases h

theorem execCount_await (hi : BitVec 3) {n : BitVec 5} {s : State} {w : Bool} (h : s.proto = .awaitCount w) :
    execCount hi n s = .next (s.setProto (if w then .writing (countOf n) else .reading (countOf n))) := by
  unfold execCount; rw [h]; cases w <;> rfl

/-- A data byte changes the register file and the pointer, nothing else. -/
theorem storeAtPtr_frame (d : Byte) (s : State) :
    storeAtPtr d s = { s with regs := (storeAtPtr d s).regs, ptr := (storeAtPtr d s).ptr } := by
  unfold storeAtPtr
  split
  · rw [regSet_eq_setRegs]; rfl
  · rfl

theorem storeAtPtr_ptr (d : Byte) (s : State) :
    (storeAtPtr d s).ptr = if s.ptr.toNat < Config.nReg then s.ptr + 1 else s.ptr := by
  by_cases h : s.ptr.toNat < Config.nReg <;> simp [storeAtPtr, validAddr, h]

theorem storeAtPtr_regGet (d : Byte) (s : State) (a : Addr) :
    regGet (storeAtPtr d s) a = if a = s.ptr ∧ s.ptr.toNat < Config.nReg then d else regGet s a := by
  by_cases h : s.ptr.toNat < Config.nReg
  · simp only [storeAtPtr, validAddr, h, decide_true, if_true]
    exact (regGet_congr (s := regSet s s.ptr d) rfl a).trans (by simp only [regGet_regSet, h])
  · simp [storeAtPtr, validAddr, h]

/-- WDATA that completes: in `Writing(k)`, `k > 0`. -/
theorem execWdata_next {d : Byte} {s t : State} (h : execWdata d s = .next t) :
    ∃ k, 0 < k ∧ s.proto = .writing k ∧ t = (storeAtPtr d s).setProto (writingOrIdle (k - 1)) := by
  unfold execWdata at h
  split at h
  · next k hp =>
    by_cases hk : 0 < k
    · rw [if_pos hk] at h; cases h; exact ⟨k, hk, hp, rfl⟩
    · rw [if_neg hk] at h; cases h
  · cases h
  · cases h
  · cases h

theorem execWdata_writing {d : Byte} {s : State} {k : Byte} (h : s.proto = .writing k) (hk : 0 < k) :
    execWdata d s = .next ((storeAtPtr d s).setProto (writingOrIdle (k - 1))) := by
  unfold execWdata; rw [h]; exact if_pos hk

/-- Everything a meaning can do when it answers a next state. -/
theorem exec_next_cases {i : Instr} {s t : State} (h : exec i s = .next t) :
    t = s ∨
      ((∃ x, i = .rdata x) ∧
        t = (readingSelect s).2.setQueue (s.queue ++ [msb (readingSelect s).1, lsb (readingSelect s).1])) ∨
      (∃ r w, i = (if w then .wreg r else .rreg r) ∧ t = startTransfer w r s) ∨
      (∃ hi n w, i = .count hi n ∧ s.proto = .awaitCount w ∧
        t = s.setProto (if w then .writing (countOf n) else .reading (countOf n))) ∨
      (∃ d k, i = .wdata d ∧ 0 < k ∧ s.proto = .writing k ∧
        t = (storeAtPtr d s).setProto (writingOrIdle (k - 1))) := by
  cases i with
  | rdata x => exact .inr (.inl ⟨⟨x, rfl⟩, execRdata_next x h⟩)
  | rreg r => exact .inr (.inr (.inl ⟨r, false, rfl, by cases h; rfl⟩))
  | wreg r => exact .inr (.inr (.inl ⟨r, true, rfl, by cases h; rfl⟩))
  | count hi n =>
    obtain ⟨w, h1, h2⟩ := execCount_next hi h
    exact .inr (.inr (.inr (.inl ⟨hi, n, w, rfl, h1, h2⟩)))
  | wdata d =>
    obtain ⟨k, h1, h2, h3⟩ := execWdata_next h
    exact .inr (.inr (.inr (.inr ⟨d, k, rfl, h1, h2, h3⟩)))
  | nop x => exact .inl (by cases h; rfl)
  | ignored02 x => exact .inl (by cases h; rfl)
  | ignored04 x => exact .inl (by cases h; rfl)
  | ignored08 x => exact .inl (by cases h; rfl)
  | ignored10 x => exact .inl (by cases h; rfl)
  | ignored14 x => exact .inl (by cases h; rfl)
  | ignored18 x => exact .inl (by cases h; rfl)
  | ignored60 x => exact .inl (by cases h; rfl)
  | ignored80 x => exact .inl (by cases h; rfl)

end Sys2Proof.Machine
end

