-- ==== Sys2Proof/Laws/Output.lean ====
section
/-! SUPPORT. What the status-bit simulation and phase 1 can do. -/

namespace Sys2Proof.Machine

/-- The simulation changes the register file and the count of STATUS reads, nothing else. -/
theorem beforeRead_frame (s : State) :
    beforeRead s = (s.setRegs (beforeRead s).regs).setStatusReads (beforeRead s).statusReads := by
  unfold beforeRead simulateStatus
  split
  · split
    · rw [regSet_eq_setRegs]; rfl
    · rw [regSet_eq_setRegs]; rfl
  · rfl

@[simp] theorem beforeRead_params (s : State) : (beforeRead s).params = s.params := by rw [beforeRead_frame]; rfl
@[simp] theorem beforeRead_statusSim (s : State) : (beforeRead s).statusSim = s.statusSim := by rw [beforeRead_frame]; rfl
@[simp] theorem beforeRead_proto (s : State) : (beforeRead s).proto = s.proto := by rw [beforeRead_frame]; rfl
@[simp] theorem beforeRead_ptr (s : State) : (beforeRead s).ptr = s.ptr := by rw [beforeRead_frame]; rfl
@[simp] theorem beforeRead_queue (s : State) : (beforeRead s).queue = s.queue := by rw [beforeRead_frame]; rfl
@[simp] theorem beforeRead_gen (s : State) : (beforeRead s).gen = s.gen := by rw [beforeRead_frame]; rfl
@[simp] theorem beforeRead_readings (s : State) : (beforeRead s).readings = s.readings := by rw [beforeRead_frame]; rfl
@[simp] theorem beforeRead_draws (s : State) : (beforeRead s).draws = s.draws := by rw [beforeRead_frame]; rfl
@[simp] theorem beforeRead_pending (s : State) : (beforeRead s).pending = s.pending := by rw [beforeRead_frame]; rfl
@[simp] theorem beforeRead_observed (s : State) : (beforeRead s).observed = s.observed := by rw [beforeRead_frame]; rfl

theorem beforeRead_off {s : State} (h : statusSimApplies s = false) : beforeRead s = s := by simp [beforeRead, h]

/-- `status_reads` after the simulation: one more, up to 3, where it applies. -/
theorem beforeRead_statusReads (s : State) :
    (beforeRead s).statusReads =
      if statusSimApplies s = true ∧ s.statusReads < Config.busyReads then s.statusReads + 1 else s.statusReads := by
  unfold beforeRead simulateStatus
  by_cases h : statusSimApplies s = true <;> by_cases h' : s.statusReads < Config.busyReads <;> simp [h, h']

/-- Every register after the simulation: only STATUS can differ, and only in the busy bit. -/
theorem beforeRead_regGet (s : State) (a : Addr) :
    regGet (beforeRead s) a =
      if statusSimApplies s = true ∧ a = s.params.addrStatus ∧ a.toNat < Config.nReg then
        (if s.statusReads < Config.busyReads then busyHigh s else busyLow s)
      else regGet s a := by
  unfold beforeRead simulateStatus
  by_cases h : statusSimApplies s = true
  · by_cases h' : s.statusReads < Config.busyReads
    · simp only [h, h', if_true, true_and]
      refine (regGet_congr (s := regSet s s.params.addrStatus (busyHigh s)) rfl a).trans ?_
      rw [regGet_regSet]
      by_cases e : a = s.params.addrStatus <;> simp [e]
    · simp only [h, h', if_true, if_false, true_and, regGet_regSet]
      by_cases e : a = s.params.addrStatus <;> simp [e]
  · simp [h]

/-- Phase 1 with a byte queued: it comes out, and nothing else happens. -/
theorem phase1_queue {s : State} {b : Byte} {q : List Byte} (h : s.queue = b :: q) :
    phase1 s = (b, s.setQueue q) := by simp [phase1, h]

theorem phase1_empty {s : State} (h : s.queue = []) : phase1 s = emptyQueueOutput s := by simp [phase1, h]

/-- Everything phase 1 can do: serve the queue, read a register out, or nothing. -/
theorem phase1_cases (s : State) :
    (∃ b q, s.queue = b :: q ∧ phase1 s = (b, s.setQueue q)) ∨
      (∃ k, s.queue = [] ∧ s.proto = .reading k ∧ 0 < k ∧ phase1 s = readOut k s) ∨
      (s.queue = [] ∧ (∀ k, s.proto = .reading k → k = 0) ∧ phase1 s = (0, s)) := by
  cases hq : s.queue with
  | cons b q => exact .inl ⟨b, q, rfl, phase1_queue hq⟩
  | nil =>
    refine .inr ?_
    rw [phase1_empty hq]
    unfold emptyQueueOutput
    cases hp : s.proto with
    | idle => exact .inr ⟨rfl, by simp, rfl⟩
    | awaitCount w => exact .inr ⟨rfl, by simp, rfl⟩
    | writing k => exact .inr ⟨rfl, by simp, rfl⟩
    | reading k =>
      by_cases hk : 0 < k
      · exact .inl ⟨k, rfl, rfl, hk, if_pos hk⟩
      · have h0 : k = 0 := by
          apply BitVec.eq_of_toNat_eq
          have : ¬ 0 < k.toNat := fun h => hk (by simpa [BitVec.lt_def] using h)
          simpa using Nat.eq_zero_of_not_pos this
        exact .inr ⟨rfl, fun k' e => by cases e; exact h0, if_neg hk⟩

/-- A read-out changes the protocol state, the pointer, the registers and the count of STATUS reads, nothing else. -/
theorem readOut_frame (k : Byte) (s : State) :
    (readOut k s).2 =
      { s with
        regs := (readOut k s).2.regs, proto := readingOrIdle (k - 1), ptr := (readOut k s).2.ptr,
        statusReads := (readOut k s).2.statusReads } := by
  unfold readOut
  split
  · rw [beforeRead_frame]; rfl
  · rfl

theorem readOut_ptr (k : Byte) (s : State) :
    (readOut k s).2.ptr = if s.ptr.toNat < Config.nReg then s.ptr + 1 else s.ptr := by
  by_cases h : s.ptr.toNat < Config.nReg <;> simp [readOut, validAddr, h]

/-- Phase 1 changes only the queue, the protocol state, the pointer, the registers and the count of STATUS reads. -/
theorem phase1_frame (s : State) :
    (phase1 s).2 =
      { s with
        queue := s.queue.tail, regs := (phase1 s).2.regs, proto := (phase1 s).2.proto, ptr := (phase1 s).2.ptr,
        statusReads := (phase1 s).2.statusReads } := by
  obtain ⟨b, q, hq, h⟩ | ⟨k, hq, hp, hk, h⟩ | ⟨hq, hp, h⟩ := phase1_cases s
  · rw [h, hq]; rfl
  · rw [h, hq]
    have hf := readOut_frame k s
    rw [State.ext_iff] at hf ⊢
    obtain ⟨h1, h2, -, -, -, h6, h7, h8, -, h10, h11, h12⟩ := hf
    exact ⟨h1, h2, rfl, rfl, rfl, by simpa [hq] using h6, h7, h8, rfl, h10, h11, h12⟩
  · rw [h, hq, State.ext_iff]
    simp [hq]

@[simp] theorem phase1_queue_eq (s : State) : (phase1 s).2.queue = s.queue.tail := by rw [phase1_frame]
@[simp] theorem phase1_params (s : State) : (phase1 s).2.params = s.params := by rw [phase1_frame]
@[simp] theorem phase1_statusSim (s : State) : (phase1 s).2.statusSim = s.statusSim := by rw [phase1_frame]
@[simp] theorem phase1_gen (s : State) : (phase1 s).2.gen = s.gen := by rw [phase1_frame]
@[simp] theorem phase1_readings (s : State) : (phase1 s).2.readings = s.readings := by rw [phase1_frame]
@[simp] theorem phase1_draws (s : State) : (phase1 s).2.draws = s.draws := by rw [phase1_frame]
@[simp] theorem phase1_pending (s : State) : (phase1 s).2.pending = s.pending := by rw [phase1_frame]
@[simp] theorem phase1_observed (s : State) : (phase1 s).2.observed = s.observed := by rw [phase1_frame]

theorem beforeRead_setPending (s : State) (ops : List Op) :
    beforeRead (s.setPending ops) = (beforeRead s).setPending ops := by
  unfold beforeRead simulateStatus
  rw [apply_ite (fun t : State => t.setPending ops), apply_ite (fun t : State => t.setPending ops)]
  exact if_congr Iff.rfl (if_congr Iff.rfl (congrArg (fun t : State => t.setStatusReads _) (regSet_setPending ..))
    (regSet_setPending ..)) rfl

theorem readOut_setPending (k : Byte) (s : State) (ops : List Op) :
    readOut k (s.setPending ops) = ((readOut k s).1, (readOut k s).2.setPending ops) := by
  unfold readOut
  rw [beforeRead_setPending]
  by_cases h : validAddr s.ptr = true
  · rw [if_pos h, if_pos (c := validAddr (s.setPending ops).ptr = true) h]; rfl
  · rw [if_neg h, if_neg (c := validAddr (s.setPending ops).ptr = true) h]; rfl

/-- What the environment still invokes plays no part in phase 1: a step at `clock(b)` outputs `(phase1 s).1`. -/
theorem phase1_setPending (s : State) (ops : List Op) :
    phase1 (s.setPending ops) = ((phase1 s).1, (phase1 s).2.setPending ops) := by
  cases hq : s.queue with
  | cons b q => rw [phase1_queue hq, phase1_queue (s := s.setPending ops) hq]; rfl
  | nil =>
    rw [phase1_empty hq, phase1_empty (s := s.setPending ops) hq]
    unfold emptyQueueOutput
    cases hp : s.proto with
    | reading k =>
      simp only [State.setPending_proto, hp]
      split
      · exact readOut_setPending k s ops
      · rfl
    | idle => simp only [State.setPending_proto, hp]
    | awaitCount w => simp only [State.setPending_proto, hp]
    | writing k => simp only [State.setPending_proto, hp]

end Sys2Proof.Machine
end

