-- ==== Sys2Proof/Laws/PerInstr.lean ====
section
/-! SUPPORT. The family `EncodeInRow`, one lemma per constructor of `Instr`: the byte of an instruction lies in its row of
the opcode table, whatever its fields. -/

namespace Sys2Proof.Laws

/-- The byte of the instruction lies in its row of the opcode table. -/
def EncodeInRow.Statement (i : Instr) : Prop := inRow i.tableRow.1 i.tableRow.2 (encode i) = true

namespace EncodeInRow

theorem nop : ∀ x, Statement (.nop x) := by unfold Statement; decide
theorem rdata : ∀ x, Statement (.rdata x) := by unfold Statement; decide
theorem rreg : ∀ r, Statement (.rreg r) := by unfold Statement; decide
theorem wreg : ∀ r, Statement (.wreg r) := by unfold Statement; decide
theorem count : ∀ i n, Statement (.count i n) := by unfold Statement; decide
theorem wdata : ∀ d, Statement (.wdata d) := by unfold Statement; decide
theorem ignored02 : ∀ x, Statement (.ignored02 x) := by unfold Statement; decide
theorem ignored04 : ∀ x, Statement (.ignored04 x) := by unfold Statement; decide
theorem ignored08 : ∀ x, Statement (.ignored08 x) := by unfold Statement; decide
theorem ignored10 : ∀ x, Statement (.ignored10 x) := by unfold Statement; decide
theorem ignored14 : ∀ x, Statement (.ignored14 x) := by unfold Statement; decide
theorem ignored18 : ∀ x, Statement (.ignored18 x) := by unfold Statement; decide
theorem ignored60 : ∀ x, Statement (.ignored60 x) := by unfold Statement; decide
theorem ignored80 : ∀ x, Statement (.ignored80 x) := by unfold Statement; decide

end EncodeInRow

end Sys2Proof.Laws
end

