-- ==== Sys2Proof/Laws/Reset.lean ====
section
/-! SUPPORT. The generator, the regeneration, reset and power-on. -/

namespace Sys2Proof.Machine

/-- The rotation of 43_sequencer R89 is the library's. -/
theorem rotl16_eq_rotateLeft (s : Reading) : rotl16 s = s.rotateLeft 1 := by
  simp [rotl16, BitVec.rotateLeft, BitVec.rotateLeftAux]

/-- One turn of the loop changes the readings and the generator only. -/
theorem refill_eq (s : State) (i : Nat) :
    refill s i = (s.setGen (genStep s.gen)).setReadings (s.readings.setIfInBounds i (genStep s.gen)) := rfl

/-- The loop from index 0 to `n`: `gen` has taken `n` steps, and `readings[j]` is the `(j+1)`-th of them. -/
theorem foldl_refill (s : State) (n : Nat) :
    (List.range n).foldl refill s =
      (s.setGen (genStep^[n] s.gen)).setReadings ((List.range n).foldl refill s).readings ∧
    ∀ j (h : j < Config.nChan), j < n → ((List.range n).foldl refill s).readings[j] = genStep^[j + 1] s.gen := by
  induction n with
  | zero => exact ⟨rfl, fun j _ h => absurd h (Nat.not_lt_zero j)⟩
  | succ n ih =>
    obtain ⟨h1, h2⟩ := ih
    have hg : ((List.range n).foldl refill s).gen = genStep^[n] s.gen := by rw [h1]; rfl
    rw [List.range_succ, List.foldl_append, List.foldl_cons, List.foldl_nil, refill_eq, hg,
      ← Function.iterate_succ_apply' genStep n]
    refine ⟨by rw [h1]; rfl, fun j hj hjn => ?_⟩
    simp only [State.setReadings_readings, Vector.getElem_setIfInBounds]
    split
    · next e => rw [e]
    · next e => exact h2 j hj (by omega)

/-- `Regenerate` (43_sequencer R94) in closed form. -/
theorem regenerate_frame (s : State) :
    regenerate s = (s.setGen (genStep^[12] s.gen)).setReadings (regenerate s).readings := (foldl_refill s 12).1

theorem regenerate_readings (s : State) (j : Nat) (h : j < Config.nChan) :
    (regenerate s).readings[j] = genStep^[j + 1] s.gen := (foldl_refill s 12).2 j h h

@[simp] theorem regenerate_gen (s : State) : (regenerate s).gen = genStep^[12] s.gen := by rw [regenerate_frame]; rfl

theorem clearBlock_eq (s : State) :
    clearBlock s =
      { s with regs := defaultRegs s.params, proto := .idle, ptr := 0, queue := [], statusReads := 0 } := rfl

theorem setGenReadings_eq (s : State) (g : Reading) (v : Vector Reading Config.nChan) :
    (s.setGen g).setReadings v = { s with gen := g, readings := v } := rfl

@[simp] theorem clearBlock_gen (s : State) : (clearBlock s).gen = s.gen := by simp [clearBlock]

/-- `Reset` (70_reset_and_hazards R114), element by element. -/
theorem resetBlock_frame (s : State) :
    resetBlock s =
      { s with
        regs := defaultRegs s.params, proto := .idle, ptr := 0, queue := [], gen := genStep^[12] s.gen,
        readings := (resetBlock s).readings, statusReads := 0 } := by
  have h := regenerate_frame (clearBlock s)
  rwa [clearBlock_gen, ← resetBlock, setGenReadings_eq, clearBlock_eq] at h

theorem resetBlock_readings (s : State) (j : Nat) (h : j < Config.nChan) :
    (resetBlock s).readings[j] = genStep^[j + 1] s.gen := by
  have h' := regenerate_readings (clearBlock s) j h
  rwa [clearBlock_gen] at h'

@[simp] theorem resetBlock_params (s : State) : (resetBlock s).params = s.params := by rw [resetBlock_frame]
@[simp] theorem resetBlock_statusSim (s : State) : (resetBlock s).statusSim = s.statusSim := by rw [resetBlock_frame]
@[simp] theorem resetBlock_regs (s : State) : (resetBlock s).regs = defaultRegs s.params := by rw [resetBlock_frame]
@[simp] theorem resetBlock_proto (s : State) : (resetBlock s).proto = .idle := by rw [resetBlock_frame]
@[simp] theorem resetBlock_ptr (s : State) : (resetBlock s).ptr = 0 := by rw [resetBlock_frame]
@[simp] theorem resetBlock_queue (s : State) : (resetBlock s).queue = [] := by rw [resetBlock_frame]
@[simp] theorem resetBlock_gen (s : State) : (resetBlock s).gen = genStep^[12] s.gen := by rw [resetBlock_frame]
@[simp] theorem resetBlock_statusReads (s : State) : (resetBlock s).statusReads = 0 := by rw [resetBlock_frame]
@[simp] theorem resetBlock_draws (s : State) : (resetBlock s).draws = s.draws := by rw [resetBlock_frame]
@[simp] theorem resetBlock_pending (s : State) : (resetBlock s).pending = s.pending := by rw [resetBlock_frame]
@[simp] theorem resetBlock_observed (s : State) : (resetBlock s).observed = s.observed := by rw [resetBlock_frame]

/-- A backed address of the default register file (10_state R13). -/
theorem regGet_default {s : State} (h : s.regs = defaultRegs s.params) {a : Addr} (ha : a.toNat < Config.nReg) :
    regGet s a = regDefault s.params a := by
  simp [regGet, h, ha, defaultRegs]

end Sys2Proof.Machine
end

