-- ==== Sys2Proof/Laws/Step.lean ====
section
/-! SUPPORT. What one step can do, and how runs are cut into steps. -/

namespace Sys2Proof.Machine

/-- `clock` that completes: phase 1, then the instruction, then phase 1's byte as the result. -/
theorem clock_next {b : Byte} {s t : State} (h : clock b s = .next t) :
    ∃ u, exec (instrAt (phase1 s).2 b) (phase1 s).2 = .next u ∧ t = u.observe (.byte (phase1 s).1) := by
  obtain ⟨u, h1, h2⟩ := thenDo_eq_next h
  exact ⟨u, h1, by cases h2; rfl⟩

theorem step_idle {s : State} (h : s.pending = []) : step s = .next s := by simp [step, invokeNext, h]

theorem step_pending {s : State} {op : Op} {rest : List Op} (h : s.pending = op :: rest) :
    step s = perform op (s.setPending rest) := by simp [step, invokeNext, h]

/-- Everything a step can do when it answers a next state. -/
theorem step_next_cases {s t : State} (h : step s = .next t) :
    (s.pending = [] ∧ t = s) ∨
      (∃ b rest, s.pending = .clock b :: rest ∧ clock b (s.setPending rest) = .next t) ∨
      (∃ rest, s.pending = .reset :: rest ∧ t = resetBlock (s.setPending rest)) ∨
      (∃ i rest, s.pending = .snapshot i :: rest ∧
        t = (s.setPending rest).observe (.reading (snapshot (s.setPending rest) i))) := by
  cases hp : s.pending with
  | nil => rw [step_idle hp] at h; cases h; exact .inl ⟨rfl, rfl⟩
  | cons op rest =>
    rw [step_pending hp] at h
    cases op with
    | clock b => exact .inr (.inl ⟨b, rest, rfl, h⟩)
    | reset => cases h; exact .inr (.inr (.inl ⟨rest, rfl, rfl⟩))
    | snapshot i => cases h; exact .inr (.inr (.inr ⟨i, rest, rfl, rfl⟩))

@[simp] theorem runSteps_zero (s : State) : runSteps 0 s = .next s := rfl

/-- A run of `n + 1` steps is a step and a run of `n`. -/
theorem runSteps_succ (n : Nat) (s : State) : runSteps (n + 1) s = thenDo (step s) (runSteps n) := by
  have e : runSteps (n + 1) s = _ := Host.Core.run.eq_2 Sys2Proof.core s n
  rw [e]
  cases h : step s with
  | next u =>
    have h' : Sys2Proof.core.step s = .next u := h
    rw [h']; rfl
  | fault r => cases r
  | refused r =>
    have h' : Sys2Proof.core.step s = .refused r := h
    rw [h']; rfl

/-- A run of `m + n` steps is a run of `m` and a run of `n`. -/
theorem runSteps_add (m n : Nat) (s : State) : runSteps (m + n) s = thenDo (runSteps m s) (runSteps n) := by
  induction m generalizing s with
  | zero => simp
  | succ m ih =>
    rw [Nat.add_right_comm, runSteps_succ, runSteps_succ]
    cases step s with
    | next u => simp [ih]
    | fault r => rfl
    | refused r => rfl

/-- An invariant of every step holds of every state a run leaves: the one induction over runs. -/
theorem runSteps_keeps {P : State → Prop} (hP : ∀ s t, P s → step s = .next t → P t) {n : Nat} {s t : State}
    (hs : P s) (h : runSteps n s = .next t) : P t := by
  induction n generalizing s with
  | zero => cases h; exact hs
  | succ n ih =>
    rw [runSteps_succ] at h
    obtain ⟨u, h1, h2⟩ := thenDo_eq_next h
    exact ih (hP s u hs h1) h2

end Sys2Proof.Machine
end

