-- ==== Sys2Proof/Tests/Slice0.lean ====
section
/-! SUPPORT. The model's own tests: well-formedness refuses, bytes written out from 30_encoding decode, one step of each
instruction with the values of 95_test_vectors, and, for every statement with hypotheses, a state and operands that meet them
all (`witness_<statement>`), at the boundary values of each clause. -/

namespace Sys2Proof.Tests

open Sys2Proof.Machine

/-! ### Well-formedness: one ill-formed term per check -/

theorem test_context_refused_command : (Instr.nop 0).wellFormed .count = false := by decide
theorem test_context_refused_count : (Instr.count 0 0).wellFormed .command = false := by decide
theorem test_context_refused_data : (Instr.wdata 0).wellFormed .command = false := by decide
theorem test_address_past_17_refused :
    ({ Params.default with addrSys := 18 } : Params).addrsBacked = false := by decide
theorem test_shared_address_refused :
    ({ Params.default with addrSys := 1 } : Params).addrsDistinct = false := by decide
theorem test_two_busy_bits_refused : ({ Params.default with busyMask := 0x41 } : Params).busyOneBit = false := by decide
theorem test_zero_depth_refused :
    ({ Params.default with queueDepth := some 0 } : Params).depthPositive = false := by decide
theorem test_default_params_wf : Params.default.wf = true := by decide

/-! ### Decoding: bytes written out from the patterns of 30_encoding R50 and R59 (T01a to T01x) -/

theorem test_decode_nop : decode .command 0b00000001 = .nop 1 := by decide
theorem test_decode_rdata : decode .command 0b00010011 = .rdata 1 := by decide
theorem test_decode_rreg : decode .command 0b00100010 = .rreg 2 := by decide
theorem test_decode_wreg : decode .command 0b01011111 = .wreg 31 := by decide
theorem test_decode_count : decode .count 0b11100011 = .count 7 3 := by decide
theorem test_decode_wdata : decode .data 0b00010010 = .wdata 0x12 := by decide
theorem test_decode_ignored02 : decode .command 0b00000010 = .ignored02 0 := by decide
theorem test_decode_ignored04 : decode .command 0b00000110 = .ignored04 2 := by decide
theorem test_decode_ignored08 : decode .command 0b00001010 = .ignored08 2 := by decide
theorem test_decode_ignored10 : decode .command 0b00010001 = .ignored10 1 := by decide
theorem test_decode_ignored14 : decode .command 0b00010100 = .ignored14 0 := by decide
theorem test_decode_ignored18 : decode .command 0b00011111 = .ignored18 7 := by decide
theorem test_decode_ignored60 : decode .command 0b01111111 = .ignored60 31 := by decide
theorem test_decode_ignored80 : decode .command 0b11111111 = .ignored80 127 := by decide

/-- The byte that withFetchWord places is the one the next step runs: `RREG 2` as the first instruction after reset. -/
theorem test_fetch_word : decodeTableWord 8 0x22 = some (.rreg 2) ∧
    step (State.reset.withFetchWord 8 0x22) =
      .next { State.reset with ptr := 2, proto := .awaitCount false, observed := [.byte 0] } := by
  and_intros <;> first | decide | rfl

/-! ### One step each (95_test_vectors) -/

/-- The state after power-on with these operations pending. -/
def pendingOf (ops : List Op) : State := State.reset.setPending ops

/-- The state after power-on in protocol state `p`, the pointer at `a`, with one byte to clock. -/
def inState (p : Proto) (a : Addr) (b : Byte) : State := ((pendingOf [.clock b]).setProto p).setPtr a

/-- T10 cycle 1: `readings[0] = 0x2D5A` enqueued, MSB first; output 0. -/
theorem test_rdata_t10 : step (pendingOf [.clock 0x12]) =
    .next { State.reset with queue := [0x2D, 0x5A], observed := [.byte 0] } := rfl
/-- T14: index 12 enqueues two bytes of `HI_INDEX_READING`. -/
theorem test_rdata_t14 : step (regSet (pendingOf [.clock 0x12]) 2 0xC5) =
    .next { regSet State.reset 2 0xC5 with queue := [0, 0], observed := [.byte 0] } := rfl
/-- T01k and T01m: start address 31. -/
theorem test_rreg_t01k : step (pendingOf [.clock 0x3F]) =
    .next { State.reset with ptr := 31, proto := .awaitCount false, observed := [.byte 0] } := rfl
theorem test_wreg_t01m : step (pendingOf [.clock 0x5F]) =
    .next { State.reset with ptr := 31, proto := .awaitCount true, observed := [.byte 0] } := rfl
/-- T01s and T01u: any byte is a count. -/
theorem test_count_t01s : step (inState (.awaitCount false) 0 0xFF) =
    .next { State.reset with proto := .reading 32, observed := [.byte 0] } := rfl
theorem test_count_t01u : step (inState (.awaitCount true) 0 0xE3) =
    .next { State.reset with proto := .writing 4, observed := [.byte 0] } := rfl
/-- T01v: a data byte that looks like RDATA is stored. -/
theorem test_wdata_t01v : step (inState (.writing 2) 3 0x12) =
    .next { regSet State.reset 3 0x12 with ptr := 4, proto := .writing 1, observed := [.byte 0] } := rfl
/-- T28 cycle 5: discarded at 18, and the count goes down. -/
theorem test_wdata_t28 : step (inState (.writing 2) 18 0x33) =
    .next { State.reset with ptr := 18, proto := .writing 1, observed := [.byte 0] } := rfl
/-- T02 and T03: NOP and ignored bytes, the real chip's reset byte 0x06 among them. -/
theorem test_nop_t02 : step (pendingOf [.clock 0x01]) = .next { State.reset with observed := [.byte 0] } := rfl
theorem test_ignored_t03 : step (pendingOf [.clock 0x06]) = .next { State.reset with observed := [.byte 0] } := rfl
/-- T22 cycles 4 and 5: the read-out at 17 advances, at 18 it does not. -/
theorem test_read_out_t22 : step (inState (.reading 2) 17 0) =
    .next { State.reset with ptr := 18, proto := .reading 1, observed := [.byte 0] } := rfl
theorem test_read_out_void_t22 : step (inState (.reading 2) 18 0) =
    .next { State.reset with ptr := 18, proto := .reading 1, observed := [.byte 0] } := rfl
/-- T30, first group: busy forced high in the register and counted. -/
theorem test_status_t30 : step { inState (.reading 1) 1 0 with statusSim := true } =
    .next { regSet State.reset 1 0xC0 with
      statusSim := true, statusReads := 1, ptr := 2, observed := [.byte 0xC0] } := rfl
/-- T60 cycle 2: the queue comes out first, and the RREG byte is decoded in the same cycle. -/
theorem test_queue_first_t60 : step { pendingOf [.clock 0x21] with queue := [0x2D, 0x5A] } =
    .next { State.reset with
      queue := [0x5A], ptr := 1, proto := .awaitCount false, observed := [.byte 0x2D] } := rfl
/-- T62 cycle 4: an RREG byte during a read-out abandons it. -/
theorem test_abandon_t62 : step (inState (.reading 5) 2 0x24) =
    .next { State.reset with ptr := 4, proto := .awaitCount false, observed := [.byte 1] } := rfl
/-- T50: reset in the middle of a write; R95, the second row of readings. -/
theorem test_reset_t50 : step { regSet (pendingOf [.reset]) 2 0x55 with proto := .writing 2, ptr := 3 } =
    .next { State.reset with gen := (orbitRow 1).1, readings := (orbitRow 1).2 } := rfl
/-- T42: the snapshot accessor at 11 and 12. -/
theorem test_snapshot_t42 :
    step (pendingOf [.snapshot 11]) = .next { State.reset with observed := [.reading 0x0964] } ∧
    step (pendingOf [.snapshot 12]) = .next { State.reset with observed := [.reading 0] } := by
  and_intros <;> first | decide | rfl
/-- T41: single steps of the generator, the wrap corners among them. -/
theorem test_generator_t41 :
    genStep 0x0000 = 0x0007 ∧ genStep 0x8000 = 0x0008 ∧ genStep 0xFFFF = 0x0006 ∧ genStep 0xFFFC = 0x0000 ∧
    genStep 0x7FFC = 0xFFFF ∧ genStep 0xFFF8 = 0xFFF8 ∧ genStep 0x96A9 = 0x2D5A := by decide

/-! ### Witnesses: states and operands that meet the hypotheses of each statement -/

/-- The state after power-on with a queue bounded at `d`. -/
def boundedAt (d : Nat) (ops : List Op) : State :=
  { pendingOf ops with params := { Params.default with queueDepth := some d } }

/-- The state after power-on with free readings for the indices 12..15 and index 15 selected. -/
def drawing : State :=
  regSet { State.reset with params := { Params.default with hiIndexReading := .draw } } 2 0xF0

/-- The state after power-on with the simulation on, about to read STATUS out, `n` reads counted. -/
def pollingAt (n : Nat) : State := { inState (.reading 1) 1 0 with statusSim := true, statusReads := n }

theorem reset_reachable (ops : List Op) : Reachable (startOf Params.default false ops) :=
  ⟨Params.default, false, ops, 0, by decide, rfl⟩

theorem witness_StepRunsTheDecodedInstruction :
    ((pendingOf [.clock 0x22]).pending = .clock 0x22 :: [] ∧
      decode (contextOf (phase1 ((pendingOf [.clock 0x22]).setPending [])).2.proto) 0x22 = .rreg 2 ∧
      exec (.rreg 2) (phase1 ((pendingOf [.clock 0x22]).setPending [])).2 =
        .next { State.reset with ptr := 2, proto := .awaitCount false }) ∧
    ((boundedAt 1 [.clock 0x12]).pending = .clock 0x12 :: [] ∧
      decode (contextOf (phase1 ((boundedAt 1 [.clock 0x12]).setPending [])).2.proto) 0x12 = .rdata 0 ∧
      exec (.rdata 0) (phase1 ((boundedAt 1 [.clock 0x12]).setPending [])).2 = .refused .queueFull) := by
  and_intros <;> first | decide | rfl

theorem witness_StepTakesOneOperationAndRecordsItsResult :
    step (pendingOf []) = .next State.reset ∧
    step (pendingOf [.clock 0]) = .next { State.reset with observed := [.byte 0] } ∧
    step (pendingOf [.reset]) = .next (resetBlock State.reset) ∧
    step (pendingOf [.snapshot 0]) = .next { State.reset with observed := [.reading 0x2D5A] } := by
  and_intros <;> first | decide | rfl

theorem witness_PhaseOneServesTheQueueThenTheReadOut :
    ({ State.reset with queue := [7] } : State).queue = 7 :: [] ∧
    (State.reset.queue = [] ∧ (inState (.reading 1) 17 0).proto = .reading 1 ∧ (0 : Byte) < 1 ∧
      (inState (.reading 1) 17 0).ptr.toNat < 18 ∧
      ¬((inState (.reading 1) 17 0).statusSim = true ∧ (inState (.reading 1) 17 0).ptr = Params.default.addrStatus)) ∧
    18 ≤ (inState (.reading 32) 18 0).ptr.toNat ∧
    (∀ k, 0 < k → State.reset.proto ≠ .reading k) := by decide

theorem witness_PhaseTwoTestsItsArmsInOrder :
    (inState (.writing 1) 0 0).proto = .writing 1 ∧ (inState (.awaitCount true) 0 0).proto = .awaitCount true ∧
    State.reset.proto = .idle ∧ (inState (.reading 32) 0 0).proto = .reading 32 ∧
    (0x20 : Byte).extractLsb' 5 3 = 0b001#3 ∧ (0x3F : Byte).extractLsb' 5 3 = 0b001#3 ∧
    (0x40 : Byte).extractLsb' 5 3 = 0b010#3 ∧ (0x5F : Byte).extractLsb' 5 3 = 0b010#3 ∧
    ((0x60 : Byte) ∉ ([0x00, 0x01, 0x12, 0x13] : List Byte) ∧ (0x60 : Byte).extractLsb' 5 3 ≠ 0b001#3 ∧
      (0x60 : Byte).extractLsb' 5 3 ≠ 0b010#3) ∧
    ((0x1F : Byte) ∉ ([0x00, 0x01, 0x12, 0x13] : List Byte) ∧ (0x1F : Byte).extractLsb' 5 3 ≠ 0b001#3) := by decide

theorem witness_PhaseTwoTransitionTable :
    phase2 0 (inState (.writing 1) 18 0) = .next ((inState (.writing 1) 18 0).setProto .idle) ∧
    phase2 0xFF (inState (.awaitCount false) 0 0) = .next ((inState (.awaitCount false) 0 0).setProto (.reading 32)) ∧
    phase2 0x20 (inState (.awaitCount true) 0 0) = .next ((inState (.awaitCount true) 0 0).setProto (.writing 1)) ∧
    phase2 0x60 (inState (.reading 1) 0 0) = .next (inState (.reading 1) 0 0) ∧
    phase2 0x5F (pendingOf []) = .next (startTransfer true 31 (pendingOf [])) := by
  and_intros <;> first | decide | rfl

theorem witness_OutputDoesNotDependOnTheInputOfItsCycle :
    clock 0x00 (pollingAt 0) = .next ((phase1 (pollingAt 0)).2.observe (.byte 0xC0)) ∧
    clock 0x22 (pollingAt 0) = .next ((startTransfer false 2 (phase1 (pollingAt 0)).2).observe (.byte 0xC0)) := by
  and_intros <;> first | decide | rfl

theorem witness_QueueOccupancyLaw :
    clock 0x13 { State.reset with queue := [1, 2] } =
      .next { State.reset with queue := [2, 0x2D, 0x5A], observed := [.byte 1] } ∧
    clock 0x00 State.reset = .next { State.reset with observed := [.byte 0] } := by
  and_intros <;> first | decide | rfl

theorem witness_EveryOperationCompletesWithAnUnboundedQueue : State.reset.params.queueDepth = none := by decide

theorem witness_OnlyAFullBoundedQueueIsRefused :
    step { boundedAt 2 [.clock 0x12] with queue := [1, 2] } = .refused .queueFull := rfl

theorem witness_RdataEnqueuesTheReadingMsbFirst :
    ∀ d, (boundedAt 2 []).params.queueDepth = some d → (boundedAt 2 []).queue.length + 2 ≤ d := by
  intro d h; cases h; decide

theorem witness_ReadingSelectTakesTheChannelOfInpmux :
    ((regGet (regSet State.reset 2 0xB0) 2).extractLsb' 4 4).toNat = 11 ∧
    ((regGet (regSet State.reset 2 0xC0) 2).extractLsb' 4 4).toNat = 12 ∧
    State.reset.params.hiIndexReading = .fixed 0 ∧
    ((regGet drawing drawing.params.addrInpmux).extractLsb' 4 4).toNat = 15 ∧
    drawing.params.hiIndexReading = .draw := by decide

theorem witness_RdataBeyondABoundedQueueIsRefused :
    (boundedAt 1 []).params.queueDepth = some 1 ∧ 1 < (boundedAt 1 []).queue.length + 2 := by decide

theorem witness_NegativeChannelDoesNotAffectTheReading :
    (0x30 : Byte).extractLsb' 4 4 = (0x3F : Byte).extractLsb' 4 4 := by decide

theorem witness_RdataIsAnsweredBehindTheQueuedBytes :
    State.reset.params.queueDepth = none ∧ State.reset.proto = .idle ∧
    (pendingOf (.clock 0x12 :: clocks [0, 0x21] ++ [.reset])).pending = .clock 0x12 :: clocks [0, 0x21] ++ [.reset] ∧
    ([0, 0x21] : List Byte).length = State.reset.queue.tail.length + 2 := by decide

theorem witness_CountStartsATransferOfOneMoreThanItsField :
    (inState (.awaitCount false) 0 0).proto = .awaitCount false ∧
    (inState (.awaitCount true) 0 0).proto = .awaitCount true := by decide

theorem witness_WdataStoresAtAValidPointerAndCountsDown :
    (inState (.writing 1) 17 0).proto = .writing 1 ∧ (0 : Byte) < 1 ∧ (inState (.writing 1) 17 0).ptr.toNat < 18 ∧
    (inState (.writing 32) 18 0).proto = .writing 32 ∧ (0 : Byte) < 32 ∧
    ¬(inState (.writing 32) 18 0).ptr.toNat < 18 := by decide

theorem witness_CountAndWdataOutsideTheirContextAreRefused :
    (∀ w, State.reset.proto ≠ .awaitCount w) ∧ (∀ k, 0 < k → State.reset.proto ≠ .writing k) ∧
    (∀ k, 0 < k → (inState (.writing 0) 0 0).proto ≠ .writing k) := by decide

theorem witness_StatusReadOutForcesThenClearsTheBusyBit :
    (∀ n ∈ [2, 3], (pollingAt n).queue = [] ∧ (pollingAt n).proto = .reading 1 ∧ (pollingAt n).statusSim = true ∧
      (pollingAt n).ptr = (pollingAt n).params.addrStatus ∧ (pollingAt n).ptr.toNat < 18) ∧
    (pollingAt 2).statusReads < 3 ∧ ¬(pollingAt 3).statusReads < 3 := by decide

theorem witness_FirstThreeStatusReadsAfterResetAreBusy :
    ∃ s : State, s.params.wf = true ∧ s.statusSim = true ∧
      s.pending = .reset :: clocks (rregFrame s.params.addrStatus 0 [0] ++ rregFrame s.params.addrStatus 0 [0] ++
        rregFrame s.params.addrStatus 0 [0] ++ rregFrame s.params.addrStatus 0 [0]) ++ [] :=
  ⟨{ pendingOf (.reset :: clocks (rregFrame 1 0 [0] ++ rregFrame 1 0 [0] ++ rregFrame 1 0 [0] ++ rregFrame 1 0 [0]))
      with statusSim := true }, by decide⟩

theorem witness_PointerAfterEveryOperation :
    step (inState (.writing 1) 17 5) =
      .next { regSet State.reset 17 5 with ptr := 18, observed := [.byte 0] } ∧
    step { pendingOf [.reset] with ptr := 31 } = .next (resetBlock State.reset) ∧
    step (pendingOf [.clock 0x34]) =
      .next { State.reset with ptr := 20, proto := .awaitCount false, observed := [.byte 0] } := by
  and_intros <;> first | decide | rfl

theorem witness_RregFrameReturnsTheRegisters :
    State.reset.proto = .idle ∧ State.reset.queue = [] ∧
    (List.replicate 32 (0x01 : Byte)).length = (31 : BitVec 5).toNat + 1 ∧
    (∀ b ∈ List.replicate 32 (0x01 : Byte), b = 0x00 ∨ b = 0x01) ∧
    (pendingOf (clocks (rregFrame 31 31 (List.replicate 32 0x01)))).pending =
      clocks (rregFrame 31 31 (List.replicate 32 0x01)) ++ [] := by decide

theorem witness_WregFrameStoresTheData :
    State.reset.proto = .idle ∧ State.reset.queue = [] ∧ ([0xAA] : List Byte).length = (0 : BitVec 5).toNat + 1 ∧
    (pendingOf (clocks (wregFrame 17 0 [0xAA]))).pending = clocks (wregFrame 17 0 [0xAA]) ++ [] := by decide

theorem witness_WriteThenReadReturnsTheValue :
    State.reset.proto = .idle ∧ State.reset.queue = [] ∧ (17 : Addr).toNat < 18 ∧
    (pendingOf (clocks (wregFrame 17 0 [0x99] ++ rregFrame 17 0 [0x00]))).pending =
      clocks (wregFrame 17 0 [0x99] ++ rregFrame 17 0 [0x00]) ++ [] := by decide

theorem witness_NoByteCancelsAWriteOrACount :
    (inState (.writing 1) 17 0).proto = .writing 1 ∧ (0 : Byte) < 1 ∧ (inState (.writing 1) 17 0).ptr.toNat < 18 ∧
    (inState (.writing 2) 18 0).proto = .writing 2 ∧ (0 : Byte) < 2 ∧ ¬(inState (.writing 2) 18 0).ptr.toNat < 18 ∧
    (inState (.awaitCount true) 0 0).proto = .awaitCount true := by decide

theorem witness_WriteToInpmuxIsUsedByTheNextRdata :
    ∃ s : State, s.params.queueDepth = none ∧ s.proto = .writing 1 ∧ s.ptr = s.params.addrInpmux ∧ s.ptr.toNat < 18 ∧
      ((0xB0 : Byte).extractLsb' 4 4).toNat < 12 ∧ s.pending = .clock 0xB0 :: .clock (encode (.rdata 1)) :: [] :=
  ⟨(inState (.writing 1) 2 0).setPending [.clock 0xB0, .clock 0x13], by decide⟩

theorem witness_VoidAddressesReadZeroAndDiscardWrites : (17 : Addr).toNat < 18 ∧ 18 ≤ (18 : Addr).toNat := by decide

theorem witness_RegistersChangeOnlyByDataBytesAndStatusSimulation :
    (clock 5 (inState (.writing 1) 17 5) =
        .next { regSet (inState (.writing 1) 17 5) 17 5 with ptr := 18, proto := .idle, observed := [.byte 0] } ∧
      regGet (regSet (inState (.writing 1) 17 5) 17 5) 17 ≠ regGet (inState (.writing 1) 17 5) 17) ∧
    (clock 0 (pollingAt 0) = .next ((phase1 (pollingAt 0)).2.observe (.byte 0xC0)) ∧
      regGet (phase1 (pollingAt 0)).2 1 ≠ regGet (pollingAt 0) 1) := by
  and_intros <;> first | decide | rfl

theorem witness_InstructionFrame :
    exec (.nop 0) State.reset = .next State.reset ∧
    exec (.wdata 5) (inState (.writing 1) 17 0) =
      .next { regSet (inState (.writing 1) 17 0) 17 5 with ptr := 18, proto := .idle } := by
  and_intros <;> first | decide | rfl

theorem witness_ClockKeepsReadingsGeneratorAndMode :
    clock 0x12 State.reset = .next { State.reset with queue := [0x2D, 0x5A], observed := [.byte 0] } := rfl

theorem witness_QueuedBytesComeOutOnceAndInOrder :
    (step { pendingOf [.clock 0x12] with queue := [1] } =
        .next { State.reset with queue := [0x2D, 0x5A], observed := [.byte 1] } ∧
      step { pendingOf [.clock 0x00] with queue := [1, 2] } =
        .next { State.reset with queue := [2], observed := [.byte 1] } ∧
      step { pendingOf [.reset] with queue := [1] } = .next (resetBlock State.reset) ∧
      step { pendingOf [.snapshot 12] with queue := [1] } =
        .next { State.reset with queue := [1], observed := [.reading 0] }) ∧
    ∃ s : State, s.params.queueDepth = none ∧ ([0x12, 0xFF] : List Byte).length = s.queue.length ∧
      s.pending = clocks [0x12, 0xFF] ++ [] :=
  ⟨⟨rfl, rfl, rfl, rfl⟩, { pendingOf (clocks [0x12, 0xFF]) with queue := [1, 2] }, by decide⟩

theorem witness_RdataIsIdempotentWithinAResetPeriod :
    ((pendingOf [.clock 0x02]).pending.take 1).all (fun op => !op.isReset) = true ∧
    runSteps 1 (pendingOf [.clock 0x02]) = .next { State.reset with observed := [.byte 0] } ∧
    (channelIndex (pendingOf [.clock 0x02])).toNat < 12 ∧
    exec (.rdata 0) (pendingOf [.clock 0x02]) = .next ((pendingOf [.clock 0x02]).setQueue [0x2D, 0x5A]) ∧
    exec (.rdata 1) { State.reset with observed := [.byte 0] } =
      .next { State.reset with queue := [0x2D, 0x5A], observed := [.byte 0] } :=
  ⟨by decide, rfl, by decide, rfl, rfl⟩

theorem witness_DefaultTable : Params.default.wf = true ∧ (17 : Addr) ∉ Params.default.addrs := by decide

theorem witness_ReadingsFollowTheOrbitOfTheSeed : Reachable (startOf Params.default false []) := reset_reachable []

theorem witness_EveryStepKeepsTheReadingsOnTheOrbit :
    ((pendingOf [.clock 0]).gen, (pendingOf [.clock 0]).readings) = orbitRow 0 ∧
    step (pendingOf [.clock 0]) = .next { State.reset with observed := [.byte 0] } ∧
    step { pendingOf [.reset] with gen := (orbitRow 3).1, readings := (orbitRow 3).2 } = .next State.reset := by
  and_intros <;> first | decide | rfl

theorem witness_ConsecutiveResetPeriodsDiffer :
    Reachable (startOf Params.default false [.reset]) ∧ (startOf Params.default false [.reset]).pending = .reset :: [] ∧
    step (startOf Params.default false [.reset]) = .next (resetBlock (startOf Params.default false [])) :=
  ⟨reset_reachable _, by decide, rfl⟩

theorem witness_GenNextRotatesAndAddsSeven : 0 < 16 ∧ 15 < 16 ∧ (rotl16 0x8000).getLsbD 0 = true := by decide

theorem witness_PowerOnState : (0 : Addr).toNat < 18 ∧ (17 : Addr).toNat < 18 := by decide

theorem witness_SnapshotReturnsTheReadingAndChangesNothing :
    (pendingOf [.snapshot 11]).pending = .snapshot 11 :: [] ∧ (pendingOf [.snapshot 12]).pending = .snapshot 12 :: [] := by
  decide

theorem witness_ResetRestoresAllButTheGenerator : (pendingOf [.reset]).pending = .reset :: [] := by decide

theorem witness_ResetDrawsTheNextTwelveReadings :
    (pendingOf [.reset]).pending = .reset :: [] ∧ step (pendingOf [.reset]) = .next (resetBlock State.reset) := by
  and_intros <;> rfl

theorem witness_BytesDecodeByTheirPatterns :
    (0x01 : Byte) &&& 0xFE = 0x00 ∧ (0x13 : Byte) &&& 0xFE = 0x12 ∧ (0x3F : Byte) &&& 0xE0 = 0x20 ∧
    (0x5F : Byte) &&& 0xE0 = 0x40 := by decide

theorem witness_ModeIsOffByDefaultAndNeverChanges :
    step (pollingAt 3) = .next { (phase1 (pollingAt 3)).2 with pending := [], observed := [.byte 0x80] } := rfl

theorem witness_InvariantHoldsAtEveryPowerOn : Params.default.wf = true := by decide

theorem witness_EveryStepKeepsTheInvariant :
    Inv (pollingAt 3) ∧ step (pollingAt 3) = .next { (phase1 (pollingAt 3)).2 with
      pending := [], observed := [.byte 0x80] } := by
  and_intros <;> first | decide | rfl

theorem witness_EveryReachableStateIsInRange : Reachable (startOf Params.default false []) := reset_reachable []

theorem witness_ZeroBytesResynchronise :
    ∃ s : State, RangesHold s ∧
      s.pending = clocks (List.replicate (s.queue.length + 32) 0x00) ++ [] :=
  ⟨(inState (.reading 32) 31 0).setPending (clocks (List.replicate 32 0x00)), by decide⟩

end Sys2Proof.Tests
end

section
/-! PROOFS. The state (10_state): the register file at backed and void addresses, the default table, the mode, and the
pointer after every operation. -/

namespace Sys2Proof.Machine

/-! ### The register file (10_state R14, R15) -/

theorem regGet_backed (s : State) {a : Addr} (h : a.toNat < Config.nReg) : regGet s a = s.regs[a.toNat] := dif_pos h

theorem regSet_backed (s : State) {a : Addr} (v : Byte) (h : a.toNat < Config.nReg) :
    regSet s a v = { s with regs := s.regs.set a.toNat v } := dif_pos h

/-- Settles O33: the rules of a backed and of a void address, side by side. -/
theorem voidAddressesReadZeroAndDiscardWrites : Obligations.VoidAddressesReadZeroAndDiscardWrites :=
  fun s _ v => ⟨fun h => ⟨regGet_backed s h, regSet_backed s v h⟩, fun h => ⟨regGet_void s h, regSet_void s v h⟩⟩

/-! ### The default table (10_state R13) -/

theorem addrs_nodup_of_wf {p : Params} (h : p.wf = true) : p.addrs.Nodup := by
  simp only [Params.wf, Bool.and_eq_true] at h
  obtain ⟨⟨⟨-, hdistinct⟩, -⟩, -⟩ := h
  exact of_decide_eq_true hdistinct

theorem regDefault_unlisted {p : Params} {a : Addr} (h : a ∉ p.addrs) : regDefault p a = 0x00 := by
  simp only [Params.addrs, List.mem_cons, List.not_mem_nil, or_false, not_or] at h
  simp [regDefault, h]

/-- Settles O40. The table is tested in the order of `Params.addrs`, so an entry answers when its address differs from those
before it: distinctness, read from the end of the list. -/
theorem defaultTable : Obligations.DefaultTable := by
  intro p hp
  have hne := List.nodup_reverse.mpr (addrs_nodup_of_wf hp)
  simp only [Params.addrs, List.reverse_cons, List.reverse_nil, List.nil_append, List.cons_append, List.nodup_cons,
    List.mem_cons, List.not_mem_nil, or_false, not_or] at hne
  obtain ⟨hFscal1, hSys, hIdacMux, hRef, hDatarate, hInpmux, hStatus, -⟩ := hne
  refine ⟨?id, ?status, ?inpmux, ?datarate, ?ref, ?idacMux, ?sys, ?fscal1, fun a => regDefault_unlisted⟩
  case id => simp [regDefault]
  case status => simp [regDefault, hStatus]
  case inpmux => simp [regDefault, hInpmux]
  case datarate => simp [regDefault, hDatarate]
  case ref => simp [regDefault, hRef]
  case idacMux => simp [regDefault, hIdacMux]
  case sys => simp [regDefault, hSys]
  case fscal1 => simp [regDefault, hFscal1]

/-! ### The mode (10_state R26) -/

theorem storeAtPtr_statusSim (d : Byte) (s : State) : (storeAtPtr d s).statusSim = s.statusSim := by
  rw [storeAtPtr_frame]

theorem exec_statusSim {i : Instr} {s t : State} (h : exec i s = .next t) : t.statusSim = s.statusSim := by
  obtain rfl | ⟨-, rfl⟩ | ⟨r, w, -, rfl⟩ | ⟨hi, n, w, -, -, rfl⟩ | ⟨d, k, -, -, -, rfl⟩ := exec_next_cases h
  · rfl
  · simp
  · rfl
  · rfl
  · exact storeAtPtr_statusSim d s

theorem clock_statusSim {b : Byte} {s t : State} (h : clock b s = .next t) : t.statusSim = s.statusSim := by
  obtain ⟨u, hexec, rfl⟩ := clock_next h
  exact (exec_statusSim hexec).trans (phase1_statusSim s)

/-- Settles O37, by the operations a step can perform. -/
theorem modeIsOffByDefaultAndNeverChanges : Obligations.ModeIsOffByDefaultAndNeverChanges := by
  refine ⟨rfl, fun s t h => ?_⟩
  obtain ⟨-, rfl⟩ | ⟨b, rest, -, hclock⟩ | ⟨rest, -, rfl⟩ | ⟨i, rest, -, rfl⟩ := step_next_cases h
  · rfl
  · exact clock_statusSim (s := s.setPending rest) hclock
  · exact resetBlock_statusSim _
  · rfl

/-! ### The pointer (10_state R21) -/

/-- Where a meaning leaves the pointer `a`: at the start address of a transfer, past a backed register that a data byte
reaches, else where it was. -/
def ptrAfter (a : Addr) : Instr → Addr
  | .rreg r => r
  | .wreg r => r
  | .wdata _ => if a.toNat < Config.nReg then a + 1 else a
  | _ => a

theorem exec_ptr {i : Instr} {s t : State} (h : exec i s = .next t) : t.ptr = ptrAfter s.ptr i := by
  cases i with
  | rdata x => rw [execRdata_next x h]; exact readingSelect_ptr s
  | rreg r => cases h; rfl
  | wreg r => cases h; rfl
  | count hi n => obtain ⟨w, -, rfl⟩ := execCount_next hi h; rfl
  | wdata d => obtain ⟨k, -, -, rfl⟩ := execWdata_next h; exact storeAtPtr_ptr d s
  | nop x => cases h; rfl
  | ignored02 x => cases h; rfl
  | ignored04 x => cases h; rfl
  | ignored08 x => cases h; rfl
  | ignored10 x => cases h; rfl
  | ignored14 x => cases h; rfl
  | ignored18 x => cases h; rfl
  | ignored60 x => cases h; rfl
  | ignored80 x => cases h; rfl

/-! The rows that the decoder tests up to WREG's, as ranges of bytes (30_encoding R60). -/

theorem inRow_rdata_iff : ∀ b : Byte, inRow 0xFE 0x12 b = true ↔ 0x12 ≤ b ∧ b ≤ 0x13 := by decide
theorem inRow_nop_iff : ∀ b : Byte, inRow 0xFE 0x00 b = true ↔ b ≤ 0x01 := by decide
theorem inRow_rreg_iff : ∀ b : Byte, inRow 0xE0 0x20 b = true ↔ 0x20 ≤ b ∧ b ≤ 0x3F := by decide
theorem inRow_wreg_iff : ∀ b : Byte, inRow 0xE0 0x40 b = true ↔ 0x40 ≤ b ∧ b ≤ 0x5F := by decide

theorem decodeCommand_rreg {b : Byte} (h : 0x20 ≤ b ∧ b ≤ 0x3F) : decodeCommand b = .rreg (lowField 5 b) := by
  have hrdata : ¬ inRow 0xFE 0x12 b = true := by rw [inRow_rdata_iff]; bv_omega
  have hnop : ¬ inRow 0xFE 0x00 b = true := by rw [inRow_nop_iff]; bv_omega
  rw [decodeCommand, if_neg hrdata, if_neg hnop, if_pos ((inRow_rreg_iff b).mpr h)]

theorem decodeCommand_wreg {b : Byte} (h : 0x40 ≤ b ∧ b ≤ 0x5F) : decodeCommand b = .wreg (lowField 5 b) := by
  have hrdata : ¬ inRow 0xFE 0x12 b = true := by rw [inRow_rdata_iff]; bv_omega
  have hnop : ¬ inRow 0xFE 0x00 b = true := by rw [inRow_nop_iff]; bv_omega
  have hrreg : ¬ inRow 0xE0 0x20 b = true := by rw [inRow_rreg_iff]; bv_omega
  rw [decodeCommand, if_neg hrdata, if_neg hnop, if_neg hrreg, if_pos ((inRow_wreg_iff b).mpr h)]

/-- Only the rows RREG and WREG of the COMMAND context move the pointer. -/
theorem ptrAfter_decodeCommand_of_not_transfer {b : Byte} (a : Addr) (h : ¬ (0x20 ≤ b ∧ b ≤ 0x5F)) :
    ptrAfter a (decodeCommand b) = a := by
  have hrreg : ¬ inRow 0xE0 0x20 b = true := by rw [inRow_rreg_iff]; bv_omega
  have hwreg : ¬ inRow 0xE0 0x40 b = true := by rw [inRow_wreg_iff]; bv_omega
  rw [decodeCommand, if_neg hrreg, if_neg hwreg]
  split_ifs <;> rfl

theorem ptrAfter_decodeCommand (a : Addr) (b : Byte) :
    ptrAfter a (decodeCommand b) = if 0x20 ≤ b ∧ b ≤ 0x5F then b.extractLsb' 0 5 else a := by
  split
  · next h =>
    obtain ⟨hlow, hhigh⟩ := h
    by_cases hb : b ≤ 0x3F
    · rw [decodeCommand_rreg ⟨hlow, hb⟩]; rfl
    · rw [decodeCommand_wreg ⟨by bv_omega, hhigh⟩]; rfl
  · next h => exact ptrAfter_decodeCommand_of_not_transfer a h

/-- `Writing(0)` takes commands (log entry 10). -/
theorem contextOf_writing_of_not_pos {k : Byte} (h : ¬ 0 < k) : contextOf (.writing k) = .command := if_neg h

theorem contextOf_readingOrIdle (k : Byte) : contextOf (readingOrIdle k) = .command := by
  unfold readingOrIdle; split <;> rfl

/-- Phase 1 does not change what the input byte is taken as (30_encoding R49): a read-out, ended or not, leaves a state that
takes commands. -/
theorem contextOf_phase1 (s : State) : contextOf (phase1 s).2.proto = contextOf s.proto := by
  obtain ⟨b, q, -, h⟩ | ⟨k, -, hp, -, h⟩ | ⟨-, -, h⟩ := phase1_cases s
  · rw [h]; rfl
  · rw [h, readOut_frame, hp]; exact contextOf_readingOrIdle _
  · rw [h]

/-- The pointer after phase 1: a read-out at a valid address advances it (40_clock_cycle R66, 42_register_commands R81). -/
theorem phase1_ptr (s : State) :
    (phase1 s).2.ptr =
      if s.ptr.toNat < Config.nReg ∧ s.queue = [] ∧ ∃ k, 0 < k ∧ s.proto = .reading k then s.ptr + 1 else s.ptr := by
  obtain ⟨b, q, hq, h⟩ | ⟨k, hq, hp, hk, h⟩ | ⟨-, hp, h⟩ := phase1_cases s
  · simp [h, hq]
  · have hread : ∃ j, 0 < j ∧ s.proto = .reading j := ⟨k, hk, hp⟩
    simp only [h, readOut_ptr, hq, hread, and_true]
  · have hread : ¬ ∃ k, 0 < k ∧ s.proto = .reading k := by
      rintro ⟨k, hk, hpk⟩
      rw [hp k hpk] at hk
      exact absurd hk (by decide)
    rw [h, if_neg fun ⟨_, _, hr⟩ => hread hr]

theorem clock_ptr_eq_ptrAfter {b : Byte} {s t : State} (h : clock b s = .next t) :
    t.ptr = ptrAfter (phase1 s).2.ptr (decode (contextOf s.proto) b) := by
  obtain ⟨u, hexec, rfl⟩ := clock_next h
  rw [State.observe_ptr, exec_ptr hexec, instrAt, contextOf_phase1]

/-- The pointer after a `clock`, by the protocol state: a command byte, or the access of the transfer in progress. -/
theorem clock_ptr {b : Byte} {s t : State} (h : clock b s = .next t) :
    t.ptr =
      if contextOf s.proto = .command ∧ 0x20 ≤ b ∧ b ≤ 0x5F then b.extractLsb' 0 5
      else if s.ptr.toNat < 18 ∧
          ((∃ k, 0 < k ∧ s.proto = .writing k) ∨ (s.queue = [] ∧ ∃ k, 0 < k ∧ s.proto = .reading k)) then s.ptr + 1
      else s.ptr := by
  rw [clock_ptr_eq_ptrAfter h, phase1_ptr]
  cases hp : s.proto with
  | idle => simp [contextOf, decode, ptrAfter_decodeCommand]
  | awaitCount w => simp [contextOf, decode, ptrAfter]
  | reading k => simp [contextOf, decode, ptrAfter_decodeCommand]
  | writing k =>
    by_cases hk : 0#8 < k
    · simp [contextOf_writing hk, decode, ptrAfter, hk]
    · simp [contextOf_writing_of_not_pos hk, decode, ptrAfter_decodeCommand, hk]

/-- Settles O27, by the operations a step can perform. -/
theorem pointerAfterEveryOperation : Obligations.PointerAfterEveryOperation := by
  intro s t h
  obtain ⟨hp, rfl⟩ | ⟨b, rest, hp, hclock⟩ | ⟨rest, hp, rfl⟩ | ⟨i, rest, hp, rfl⟩ := step_next_cases h
  · rw [hp]
  · rw [hp]; exact clock_ptr (s := s.setPending rest) hclock
  · rw [hp]; exact resetBlock_ptr _
  · rw [hp]; rfl

end Sys2Proof.Machine
end

section
/-! PROOFS. The encoding (30_encoding): the rows of the COMMAND context by mask and match, and the COUNT and DATA contexts. -/

namespace Sys2Proof.Machine

theorem inRow_iff {mask pattern b : Byte} : inRow mask pattern b = true ↔ b &&& mask = pattern := beq_iff_eq

theorem decodeCommand_rdata {b : Byte} (h : 0x12 ≤ b ∧ b ≤ 0x13) : decodeCommand b = .rdata (lowField 1 b) :=
  if_pos ((inRow_rdata_iff b).mpr h)

theorem decodeCommand_nop {b : Byte} (h : b ≤ 0x01) : decodeCommand b = .nop (lowField 1 b) := by
  have hrdata : ¬ inRow 0xFE 0x12 b = true := by rw [inRow_rdata_iff]; bv_omega
  rw [decodeCommand, if_neg hrdata, if_pos ((inRow_nop_iff b).mpr h)]

/-- Settles O3, row by row: the mask and match of a row hold a range of bytes, and the decoder's equation for that range reads
the field. -/
theorem bytesDecodeByTheirPatterns : Obligations.BytesDecodeByTheirPatterns := by
  intro b
  refine ⟨fun hnop => ?_, fun hrdata => ?_, fun hrreg => ?_, fun hwreg => ?_, rfl, rfl⟩
  · exact decodeCommand_nop ((inRow_nop_iff b).mp (inRow_iff.mpr hnop))
  · exact decodeCommand_rdata ((inRow_rdata_iff b).mp (inRow_iff.mpr hrdata))
  · exact decodeCommand_rreg ((inRow_rreg_iff b).mp (inRow_iff.mpr hrreg))
  · exact decodeCommand_wreg ((inRow_wreg_iff b).mp (inRow_iff.mpr hwreg))

end Sys2Proof.Machine
end

section
/-! PROOFS. Phase 2 (40_clock_cycle R67): which meaning an input byte runs, by the protocol state and the byte. -/

namespace Sys2Proof.Machine

/-! ### The context, chosen by the protocol state alone (30_encoding R49) -/

theorem phase2_data (b : Byte) {s : State} (h : contextOf s.proto = .data) : phase2 b s = exec (.wdata b) s := by
  rw [phase2, instrAt, h, decode]

theorem phase2_count (b : Byte) {s : State} (h : contextOf s.proto = .count) :
    phase2 b s = exec (.count (b.extractLsb' 5 3) (b.extractLsb' 0 5)) s := by
  rw [phase2, instrAt, h, decode, highField, lowField]

theorem phase2_command (b : Byte) {s : State} (h : contextOf s.proto = .command) :
    phase2 b s = exec (decodeCommand b) s := by
  rw [phase2, instrAt, h, decode]

theorem contextOf_of_idle_or_reading {p : Proto} (h : p = .idle ∨ ∃ k, p = .reading k) : contextOf p = .command := by
  obtain rfl | ⟨k, rfl⟩ := h <;> rfl

/-! ### The rows of the COMMAND context, on the byte's bits (30_encoding R60) -/

/-- Bits 7:5 of a byte, as the block of 32 bytes that it lies in. -/
theorem highBits_eq_iff (b : Byte) (h : BitVec 3) :
    b.extractLsb' 5 3 = h ↔ 32 * h.toNat ≤ b.toNat ∧ b.toNat < 32 * h.toNat + 32 := by
  rw [← BitVec.toNat_inj, BitVec.extractLsb'_toNat, Nat.shiftRight_eq_div_pow]
  omega

theorem highBits_eq_rreg_iff (b : Byte) : b.extractLsb' 5 3 = 0b001#3 ↔ 0x20 ≤ b ∧ b ≤ 0x3F := by
  rw [highBits_eq_iff]
  bv_omega

theorem highBits_eq_wreg_iff (b : Byte) : b.extractLsb' 5 3 = 0b010#3 ↔ 0x40 ≤ b ∧ b ≤ 0x5F := by
  rw [highBits_eq_iff]
  bv_omega

/-- What is left behind the arms of RDATA, NOP, RREG and WREG are the eight IGNORED rows, each without effect. -/
theorem exec_decodeCommand_ignored {b : Byte} (s : State) (hrdata : ¬ (0x12 ≤ b ∧ b ≤ 0x13)) (hnop : ¬ b ≤ 0x01)
    (hrreg : ¬ (0x20 ≤ b ∧ b ≤ 0x3F)) (hwreg : ¬ (0x40 ≤ b ∧ b ≤ 0x5F)) : exec (decodeCommand b) s = .next s := by
  rw [← inRow_rdata_iff] at hrdata
  rw [← inRow_nop_iff] at hnop
  rw [← inRow_rreg_iff] at hrreg
  rw [← inRow_wreg_iff] at hwreg
  rw [decodeCommand, if_neg hrdata, if_neg hnop, if_neg hrreg, if_neg hwreg]
  split_ifs <;> rfl

/-- Settles O8: the protocol state gives the context, and in the COMMAND context the byte's row gives the meaning. -/
theorem phaseTwoTestsItsArmsInOrder : Obligations.PhaseTwoTestsItsArmsInOrder := by
  intro b s
  refine ⟨fun k hp hk => ?data, fun w hp => ?count, fun hp => ?command⟩
  case data => exact phase2_data b (by rw [hp, contextOf_writing hk])
  case count => exact phase2_count b (by rw [hp, contextOf])
  case command =>
    rw [phase2_command b (contextOf_of_idle_or_reading hp), highBits_eq_rreg_iff, highBits_eq_wreg_iff]
    refine ⟨fun hb => ?rdata, fun hb => ?nop, fun hb => ?rreg, fun hb => ?wreg, fun hb hrreg hwreg => ?ignored⟩
    case rdata => rw [decodeCommand_rdata (by bv_omega), lowField]
    case nop => rw [decodeCommand_nop (by bv_omega), lowField]
    case rreg => rw [decodeCommand_rreg hb, lowField]
    case wreg => rw [decodeCommand_wreg hb, lowField]
    case ignored =>
      simp only [List.mem_cons, List.not_mem_nil, or_false, not_or] at hb
      exact exec_decodeCommand_ignored s (by bv_omega) (by bv_omega)
        (mt (highBits_eq_rreg_iff b).mpr hrreg) (mt (highBits_eq_wreg_iff b).mpr hwreg)

end Sys2Proof.Machine
end

section
/-! PROOFS. The single-byte commands (41_simple_commands): RDATA, NOP and the ignored bytes. -/

namespace Sys2Proof.Machine

/-- What RDATA writes (41_simple_commands R74): the select leaves all but the count of draws, the enqueue all but the queue. -/
theorem readingSelect_setQueue_frame (s : State) (q : List Byte) :
    (readingSelect s).2.setQueue q = { s with queue := q, draws := (readingSelect s).2.draws } :=
  congrArg (fun u : State => u.setQueue q) (readingSelect_state s)

/-- Settles O15: where two bytes fit, RDATA leaves the selected state with the reading's bytes at the tail of the queue, and
the frame of that state says what is unchanged. -/
theorem rdataEnqueuesTheReadingMsbFirst : Obligations.RdataEnqueuesTheReadingMsbFirst := by
  intro x s hfits
  exact ⟨_, execRdata_fits x hfits, rfl, readingSelect_setQueue_frame s _⟩

/-- Settles O14, row by row: every one of the nine arms is the empty meaning of R72. -/
theorem nopAndIgnoredBytesChangeNothing : Obligations.NopAndIgnoredBytesChangeNothing :=
  fun _ => ⟨fun _nop => rfl, fun _ignored02 => rfl, fun _ignored04 => rfl, fun _ignored08 => rfl, fun _ignored10 => rfl,
    fun _ignored14 => rfl, fun _ignored18 => rfl, fun _ignored60 => rfl, fun _ignored80 => rfl⟩

end Sys2Proof.Machine
end

section
/-! PROOFS. The register commands (42_register_commands): the first bytes, the count byte and the data byte. -/

namespace Sys2Proof.Machine

/-! ### The first bytes (42_register_commands R77, R78) -/

/-- What RREG and WREG share: the pointer and the protocol state change, nothing else. -/
theorem startTransfer_eq (w : Bool) (r : Addr) (s : State) :
    startTransfer w r s = { s with ptr := r, proto := .awaitCount w } := rfl

/-- Settles O20: the shared first byte of a transfer, for a read. -/
theorem rregLoadsThePointerAndAwaitsTheCount : Obligations.RregLoadsThePointerAndAwaitsTheCount :=
  fun r s => congrArg Host.Outcome.next (startTransfer_eq false r s)

/-- Settles O21: the shared first byte of a transfer, for a write. -/
theorem wregLoadsThePointerAndAwaitsTheCount : Obligations.WregLoadsThePointerAndAwaitsTheCount :=
  fun r s => congrArg Host.Outcome.next (startTransfer_eq true r s)

/-! ### The count byte (42_register_commands R79) -/

/-- Settles O22: the count of R79 fits in a byte, so it is one more than the field, and the ignored bits play no part. -/
theorem countStartsATransferOfOneMoreThanItsField : Obligations.CountStartsATransferOfOneMoreThanItsField :=
  fun hi n _ _ hp => ⟨countOf n, countOf_toNat n, execCount_await hi hp⟩

/-! ### The data byte (42_register_commands R80) -/

/-- The count goes down, and the last data byte ends the transfer. -/
theorem writingOrIdle_sub_one {k : Byte} (hk : 0 < k) :
    writingOrIdle (k - 1) = if k = 1 then .idle else .writing (k - 1) := by
  by_cases h1 : k = 1
  · rw [if_pos h1, h1, BitVec.sub_self]; exact writingOrIdle_zero
  · rw [if_neg h1]; exact writingOrIdle_pos (by bv_omega)

/-- Settles O23: the data byte goes where the rules of `storeAtPtr` say, and then the protocol state alone changes. -/
theorem wdataStoresAtAValidPointerAndCountsDown : Obligations.WdataStoresAtAValidPointerAndCountsDown := by
  intro d s k hp hk
  refine ⟨_, execWdata_writing hp hk, ?registers, ?pointer, ?count, ?frame⟩
  case registers => exact fun a => (regGet_congr rfl a).trans (storeAtPtr_regGet d s a)
  case pointer => exact storeAtPtr_ptr d s
  case count => exact writingOrIdle_sub_one hk
  case frame => exact congrArg (State.setProto · _) (storeAtPtr_frame d s)

end Sys2Proof.Machine
end

section
/-! PROOFS. Reset (70_reset_and_hazards R114): every element at its value, the readings drawn from the generator as it stands. -/

namespace Sys2Proof.Machine

/-- `Regenerate` (43_sequencer R94) draws from the generator alone: what else the state holds plays no part in the readings. -/
theorem regenerate_readings_congr {s u : State} (hgen : u.gen = s.gen) :
    (regenerate u).readings = (regenerate s).readings := by
  ext i hi
  rw [regenerate_readings u i hi, regenerate_readings s i hi, hgen]

/-- Clearing the block first does not change what is drawn. -/
theorem resetBlock_readings_eq_regenerate (s : State) : (resetBlock s).readings = (regenerate s).readings :=
  regenerate_readings_congr (clearBlock_gen s)

theorem resetBlock_regGet (s : State) {a : Addr} (ha : a.toNat < Config.nReg) :
    regGet (resetBlock s) a = regDefault s.params a := by
  rw [regGet_default (by rw [resetBlock_regs, resetBlock_params]) ha, resetBlock_params]

/-- The frame of a reset, with the generator and the readings as `Regenerate` leaves them in any state `u` whose generator
stands where that of `s` does. -/
theorem resetBlock_eq_of_gen_eq {s u : State} (hgen : u.gen = s.gen) :
    resetBlock s =
      { s with
        regs := (resetBlock s).regs, proto := .idle, ptr := 0, queue := [], gen := (regenerate u).gen,
        readings := (regenerate u).readings, statusReads := 0 } := by
  rw [regenerate_gen, hgen, regenerate_readings_congr hgen, ← resetBlock_readings_eq_regenerate, resetBlock_regs]
  exact resetBlock_frame s

/-- Settles O47: taking the operation off leaves the generator where it stands, so the frame of a reset gives the next state. -/
theorem resetRestoresAllButTheGenerator : Obligations.ResetRestoresAllButTheGenerator := by
  intro s rest hp
  refine ⟨resetBlock (s.setPending rest), step_pending hp, fun a ha => ?registers, ?frame⟩
  case registers => exact resetBlock_regGet (s.setPending rest) ha
  case frame => exact resetBlock_eq_of_gen_eq (s := s.setPending rest) (u := s) rfl

end Sys2Proof.Machine
end

section
/-! PROOFS. The encoding (30_encoding), as a whole: decode and encode are inverse, and the rows partition the bytes. -/

namespace Sys2Proof.Machine

theorem context_decodeCommand : ∀ b : Byte, (decodeCommand b).context = .command := by decide

theorem encode_decodeCommand : ∀ b : Byte, encode (decodeCommand b) = b := by decide

/-- Decoding a byte gives an instruction of the context it was decoded in. -/
theorem context_decode (c : Context) (b : Byte) : (decode c b).context = c := by
  cases c with
  | command => exact context_decodeCommand b
  | count => rfl
  | data => rfl

theorem encode_decode (c : Context) (b : Byte) : encode (decode c b) = b := by
  cases c with
  | command => exact encode_decodeCommand b
  | count => exact (by decide : ∀ b : Byte, highField b ++ lowField 5 b = b) b
  | data => rfl

/-- No two instructions of a context share a byte: every field stands in the byte. -/
theorem decode_encode (i : Instr) : decode i.context (encode i) = i := by
  cases i with
  | nop x => revert x; decide
  | rdata x => revert x; decide
  | rreg r => revert r; decide
  | wreg r => revert r; decide
  | count hi n => revert hi n; decide
  | wdata d => rfl
  | ignored02 x => revert x; decide
  | ignored04 x => revert x; decide
  | ignored08 x => revert x; decide
  | ignored10 x => revert x; decide
  | ignored14 x => revert x; decide
  | ignored18 x => revert x; decide
  | ignored60 x => revert x; decide
  | ignored80 x => revert x; decide

/-- Settles O4: each direction is one of the two compositions. -/
theorem decodeAndEncodeAreInverse : Obligations.DecodeAndEncodeAreInverse := by
  intro c b i
  constructor
  · rintro rfl
    exact ⟨by rw [Instr.wellFormed, context_decode, beq_self_eq_true], encode_decode c b⟩
  · rintro ⟨hwf, rfl⟩
    obtain rfl : i.context = c := eq_of_beq hwf
    exact decode_encode i

/-- Settles O1: each example lies in its context and has the byte that its pattern writes out. -/
theorem exampleBytesDecode : Obligations.ExampleBytesDecode := by
  unfold Obligations.ExampleBytesDecode
  simp only [decodeAndEncodeAreInverse _ _ _]
  decide

/-- The instruction that a command byte decodes to stands in the one row that contains the byte (30_encoding R60). -/
theorem commandRows_filter_inRow : ∀ b : Byte,
    (commandRows.filter fun row => inRow row.1 row.2 b) = [(decodeCommand b).tableRow] := by decide

/-- Settles O2: the row of the decoded instruction is the one that holds the byte; the sizes are counted. -/
theorem commandRowsPartitionTheBytes : Obligations.CommandRowsPartitionTheBytes :=
  ⟨commandRows_filter_inRow, by decide +kernel, by decide +kernel⟩

end Sys2Proof.Machine
end

section
/-! PROOFS. The generator and the readings (43_sequencer). -/

namespace Sys2Proof.Machine

/-! ### The generator (43_sequencer R89 to R93) -/

theorem rotl16_getLsbD (g : Reading) {i : Nat} (hi : i < 16) :
    (rotl16 g).getLsbD i = g.getLsbD (if i = 0 then 15 else i - 1) := by
  rw [rotl16_eq_rotateLeft, BitVec.getLsbD_rotateLeft]
  by_cases h0 : i = 0
  · simp [h0]
  · simp [h0, hi]

/-- Settles O41: the rotation bit by bit; `GenNext` is its equation. -/
theorem genNextRotatesAndAddsSeven : Obligations.GenNextRotatesAndAddsSeven :=
  ⟨fun g _ hi => rotl16_getLsbD g hi, fun _ => rfl⟩

/-- The rotation in numbers: the top bit, of weight 32768, comes round to the bottom. -/
theorem rotl16_toNat (g : Reading) :
    (rotl16 g).toNat = if g.toNat < 32768 then 2 * g.toNat else 2 * g.toNat - 65535 := by
  have hg := g.isLt
  have hor := Nat.shiftLeft_add_eq_or_of_lt (i := 1) (b := g.toNat / 32768) (by omega) (g.toNat % 32768)
  have hlow : g.toNat <<< 1 % 2 ^ 16 = (g.toNat % 32768) <<< 1 := by simp only [Nat.shiftLeft_eq]; omega
  rw [rotl16, BitVec.toNat_or, BitVec.toNat_shiftLeft, BitVec.toNat_ushiftRight, Nat.shiftRight_eq_div_pow, hlow, ← hor,
    Nat.shiftLeft_eq]
  split <;> omega

theorem rotl16_injective : Function.Injective rotl16 := by
  intro g h e
  have hnat := congrArg BitVec.toNat e
  rw [rotl16_toNat, rotl16_toNat] at hnat
  have hg := g.isLt
  have hh := h.isLt
  apply BitVec.eq_of_toNat_eq
  split_ifs at hnat <;> omega

theorem genStep_injective : Function.Injective genStep :=
  fun _ _ e => rotl16_injective (add_right_cancel e)

theorem genStep_toNat (g : Reading) : (genStep g).toNat = ((rotl16 g).toNat + 7) % 65536 := BitVec.toNat_add ..

theorem genStep_eq_self_iff (g : Reading) : genStep g = g ↔ g = 0xFFF8 := by
  have hg := g.isLt
  have hfixed : (0xFFF8 : Reading).toNat = 65528 := rfl
  rw [← BitVec.toNat_inj, ← BitVec.toNat_inj, genStep_toNat, rotl16_toNat]
  split <;> omega

/-- Settles O42: on a finite type an injection is a bijection. -/
theorem generatorStepIsABijectionWithOneFixedPoint : Obligations.GeneratorStepIsABijectionWithOneFixedPoint :=
  ⟨Finite.injective_iff_bijective.mp genStep_injective, genStep_eq_self_iff⟩

/-! ### The table of reset periods (43_sequencer R94, R95) -/

/-- The generator and the readings that a reset draws from the generator at `g` (43_sequencer R94). -/
def drawnFrom (g : Reading) : Reading × Vector Reading Config.nChan :=
  (genStep^[12] g, Vector.ofFn fun i : Fin Config.nChan => genStep^[i.val + 1] g)

/-- What a reset leaves depends on the generator alone. -/
theorem resetBlock_drawn (s : State) : ((resetBlock s).gen, (resetBlock s).readings) = drawnFrom s.gen := by
  rw [drawnFrom, resetBlock_gen, Prod.mk.injEq]
  refine ⟨rfl, Vector.ext fun i hi => ?_⟩
  rw [resetBlock_readings s i hi, Vector.getElem_ofFn]

/-- The numbers of R95: each row of the table is drawn from the last reading of the row before it. -/
theorem drawnFrom_orbitRow : ∀ j < 4, drawnFrom (orbitRow j).1 = orbitRow ((j + 1) % 4) := by decide

theorem resetBlock_orbitRow {s : State} {j : Nat} (hj : j < 4) (hgen : s.gen = (orbitRow j).1) :
    ((resetBlock s).gen, (resetBlock s).readings) = orbitRow ((j + 1) % 4) := by
  rw [resetBlock_drawn, hgen, drawnFrom_orbitRow j hj]

theorem orbitRow_differs_next : ∀ j < 4, ∀ (i : Nat) (h : i < 12),
    (orbitRow ((j + 1) % 4)).2[i] ≠ (orbitRow j).2[i] := by decide

/-- Settles O48: reading `i` is the generator after `i + 1` steps. -/
theorem resetDrawsTheNextTwelveReadings : Obligations.ResetDrawsTheNextTwelveReadings := by
  intro s t rest hp h
  rw [step_pending hp] at h
  cases h
  have hread := resetBlock_readings (s.setPending rest)
  refine ⟨hread 0 (by decide), fun i hi => ?_, ?_⟩
  · rw [hread (i + 1) hi, hread i (Nat.lt_of_succ_lt hi), Function.iterate_succ_apply']
  · rw [hread 11 (by decide), resetBlock_gen]

/-- Settles O46: within the index range and outside it. -/
theorem snapshotReturnsTheReadingAndChangesNothing : Obligations.SnapshotReturnsTheReadingAndChangesNothing := by
  intro s i rest hp
  have hstep : step s = .next ((s.setPending rest).observe (.reading (snapshot (s.setPending rest) i))) := step_pending hp
  constructor
  · intro hi
    have hval : snapshot (s.setPending rest) i = s.readings[i] := dif_pos hi
    rw [hstep, hval]; rfl
  · intro hi
    have hval : snapshot (s.setPending rest) i = 0 := dif_neg (Nat.not_lt.mpr hi)
    rw [hstep, hval]; rfl

end Sys2Proof.Machine
end

section
/-! PROOFS. Power-on (70_reset_and_hazards R113): the state it leaves, and the invariant at the start of every run. -/

namespace Sys2Proof.Machine

/-- The seed is the last reading of the fourth row, so power-on draws the first. -/
theorem seed_eq_orbitRow : Config.seed = (orbitRow 3).1 := by decide

theorem powerOn_orbitRow (p : Params) (sim : Bool) :
    ((powerOn p sim).gen, (powerOn p sim).readings) = orbitRow 0 := resetBlock_orbitRow (j := 3) (by decide) seed_eq_orbitRow

/-- Settles O49: power-on ends in a reset, of a state with the generator at its seed. -/
theorem powerOnState : Obligations.PowerOnState := by
  intro p sim
  refine ⟨resetBlock_params _, resetBlock_statusSim _, resetBlock_proto _, resetBlock_ptr _, resetBlock_queue _,
    resetBlock_statusReads _, powerOn_orbitRow p sim, fun a ha => resetBlock_regGet _ ha⟩

/-- Settles O50, element by element. -/
theorem resetStateIsThePowerOnState : Obligations.ResetStateIsThePowerOnState := by
  have ⟨hparams, hmode, hproto, hptr, hqueue, hreads, hdrawn, _⟩ := powerOnState Params.default false
  have ⟨hgen, hreadings⟩ := Prod.mk.inj hdrawn
  have hregs : resetRegs = (powerOn Params.default false).regs := (by decide : resetRegs = defaultRegs Params.default)
  exact State.ext hparams.symm hmode.symm hregs hproto.symm hptr.symm hqueue.symm hgen.symm hreadings.symm hreads.symm
    rfl rfl rfl

theorem withinDepth_of_queue_nil {s : State} (h : s.queue = []) : withinDepth s = true := by
  unfold withinDepth
  split <;> simp [h]

/-- Settles O52: power-on clears everything that a range bounds, and the first row ends in its generator. -/
theorem invariantHoldsAtEveryPowerOn : Obligations.InvariantHoldsAtEveryPowerOn := by
  intro p sim ops hwf
  obtain ⟨hparams, -, hproto, -, hqueue, hreads, hdrawn, -⟩ := powerOnState p sim
  obtain ⟨hgen, hreadings⟩ := Prod.mk.inj hdrawn
  refine ⟨?params, ⟨?proto, ?count, fun _ => hreads⟩, withinDepth_of_queue_nil hqueue, ?generator⟩
  case params => rwa [startOf, State.setPending_params, hparams]
  case proto => rw [startOf, State.setPending_proto, hproto]; rfl
  case count => rw [startOf, State.setPending_statusReads, hreads]; exact Nat.zero_le _
  case generator => simp only [startOf, State.setPending_gen, State.setPending_readings, hgen, hreadings]; rfl

/-- Settles O51: the reset state starts the run without operations. -/
theorem invariantHoldsAtReset : Obligations.InvariantHoldsAtReset := by
  have hstart : State.reset = startOf Params.default false [] := resetStateIsThePowerOnState
  unfold Obligations.InvariantHoldsAtReset
  rw [hstart]
  exact invariantHoldsAtEveryPowerOn Params.default false [] (by decide)

end Sys2Proof.Machine
end

section
/-! PROOFS. What an instruction, a `clock` and a step change and what they leave unchanged. -/

namespace Sys2Proof.Machine

/-! ### Instructions -/

@[simp] theorem storeAtPtr_params (d : Byte) (s : State) : (storeAtPtr d s).params = s.params := by rw [storeAtPtr_frame]
@[simp] theorem storeAtPtr_queue (d : Byte) (s : State) : (storeAtPtr d s).queue = s.queue := by rw [storeAtPtr_frame]
@[simp] theorem storeAtPtr_gen (d : Byte) (s : State) : (storeAtPtr d s).gen = s.gen := by rw [storeAtPtr_frame]
@[simp] theorem storeAtPtr_readings (d : Byte) (s : State) : (storeAtPtr d s).readings = s.readings := by
  rw [storeAtPtr_frame]
@[simp] theorem storeAtPtr_statusReads (d : Byte) (s : State) : (storeAtPtr d s).statusReads = s.statusReads := by
  rw [storeAtPtr_frame]
@[simp] theorem storeAtPtr_draws (d : Byte) (s : State) : (storeAtPtr d s).draws = s.draws := by rw [storeAtPtr_frame]
@[simp] theorem storeAtPtr_pending (d : Byte) (s : State) : (storeAtPtr d s).pending = s.pending := by
  rw [storeAtPtr_frame]
@[simp] theorem storeAtPtr_observed (d : Byte) (s : State) : (storeAtPtr d s).observed = s.observed := by
  rw [storeAtPtr_frame]

/-- Settles O35, by what a meaning can do: nothing, RDATA, a first byte, COUNT or WDATA. -/
theorem instructionFrame : Obligations.InstructionFrame := by
  intro i s t h
  obtain rfl | ⟨⟨x, rfl⟩, rfl⟩ | ⟨r, w, rfl, rfl⟩ | ⟨hi, n, w, rfl, -, rfl⟩ | ⟨d, k, rfl, -, -, rfl⟩ := exec_next_cases h
  · simp
  · simp
  · cases w <;> simp [startTransfer]
  · simp
  · simp [storeAtPtr_statusSim]

/-- The two bytes that RDATA appends in state `s`, most significant first (41_simple_commands R74). -/
def rdataBytes (s : State) : List Byte := [(readingSelect s).1.extractLsb' 8 8, (readingSelect s).1.extractLsb' 0 8]

theorem exec_queue {i : Instr} {s t : State} (h : exec i s = .next t) :
    t.queue = s.queue ++ if ∃ x, i = .rdata x then rdataBytes s else [] := by
  split
  · next hr =>
    obtain ⟨x, rfl⟩ := hr
    rw [execRdata_next x h]; rfl
  · next hr =>
    obtain ⟨-, -, -, -, -, -, -, -, -, -, hkeep⟩ := instructionFrame i s t h
    obtain ⟨hqueue, -⟩ := hkeep (not_exists.mp hr)
    rw [hqueue, List.append_nil]

/-! ### `clock` -/

/-- Settles O36: neither phase touches them. -/
theorem clockKeepsReadingsGeneratorAndMode : Obligations.ClockKeepsReadingsGeneratorAndMode := by
  intro s t b h
  obtain ⟨u, hexec, rfl⟩ := clock_next h
  obtain ⟨hreadings, hgen, hmode, hparams, -⟩ := instructionFrame _ _ _ hexec
  simp [hreadings, hgen, hmode, hparams]

theorem clock_pending {b : Byte} {s t : State} (h : clock b s = .next t) : t.pending = s.pending := by
  obtain ⟨u, hexec, rfl⟩ := clock_next h
  obtain ⟨-, -, -, -, -, hpending, -⟩ := instructionFrame _ _ _ hexec
  simp [hpending]

/-- Phase 1's byte is the one result of a `clock`. -/
theorem clock_observed {b : Byte} {s t : State} (h : clock b s = .next t) :
    t.observed = s.observed ++ [.byte (phase1 s).1] := by
  obtain ⟨u, hexec, rfl⟩ := clock_next h
  obtain ⟨-, -, -, -, -, -, hobserved, -⟩ := instructionFrame _ _ _ hexec
  simp [hobserved]

theorem clock_queue {b : Byte} {s t : State} (h : clock b s = .next t) :
    t.queue = s.queue.tail ++ if ∃ x, instrAt (phase1 s).2 b = .rdata x then rdataBytes (phase1 s).2 else [] := by
  obtain ⟨u, hexec, rfl⟩ := clock_next h
  rw [State.observe_queue, exec_queue hexec, phase1_queue_eq]

/-- Settles O10: phase 1 comes before the byte is looked at. -/
theorem outputDoesNotDependOnTheInputOfItsCycle : Obligations.OutputDoesNotDependOnTheInputOfItsCycle := by
  intro s t t' b b' h h'
  rw [clock_observed h, clock_observed h']

/-- Settles O11: the lengths of what comes off and what joins. -/
theorem queueOccupancyLaw : Obligations.QueueOccupancyLaw := by
  intro s t b h
  rw [clock_queue h, List.length_append, List.length_tail, Nat.max_eq_left (Nat.zero_le _), apply_ite List.length]
  rfl

/-! ### The step -/

/-- Two runs, one after the other. -/
theorem runSteps_trans {m n : Nat} {s u t : State} (h1 : runSteps m s = .next u) (h2 : runSteps n u = .next t) :
    runSteps (m + n) s = .next t := by
  rw [runSteps_add, h1, thenDo_next, h2]

theorem runSteps_cons {n : Nat} {s u t : State} (h1 : step s = .next u) (h2 : runSteps n u = .next t) :
    runSteps (n + 1) s = .next t := by
  rw [runSteps_succ, h1, thenDo_next, h2]

/-- The bytes RDATA appends do not depend on what the environment still invokes. -/
theorem rdataBytes_setPending (s : State) (ops : List Op) : rdataBytes (s.setPending ops) = rdataBytes s := by
  rw [rdataBytes, readingSelect_setPending]; rfl

theorem step_params {s t : State} (h : step s = .next t) : t.params = s.params := by
  obtain ⟨-, rfl⟩ | ⟨b, rest, -, hclock⟩ | ⟨rest, -, rfl⟩ | ⟨i, rest, -, rfl⟩ := step_next_cases h
  · rfl
  · obtain ⟨-, -, -, hparams⟩ := clockKeepsReadingsGeneratorAndMode _ _ b hclock
    exact hparams
  · exact resetBlock_params _
  · rfl

/-- A step at a pending `clock` that completes, in terms of the state before it. -/
theorem step_clock_next {s t : State} {b : Byte} {rest : List Op} (hp : s.pending = .clock b :: rest)
    (h : step s = .next t) :
    t.pending = rest ∧ t.params = s.params ∧ t.observed = s.observed ++ [.byte (phase1 s).1] ∧
      t.queue = s.queue.tail ++ if ∃ x, instrAt (phase1 s).2 b = .rdata x then rdataBytes (phase1 s).2 else [] := by
  have hparams := step_params h
  rw [step_pending hp] at h
  have hobserved := clock_observed h
  have hqueue := clock_queue h
  rw [phase1_setPending] at hobserved
  rw [phase1_setPending, rdataBytes_setPending] at hqueue
  exact ⟨clock_pending h, hparams, hobserved, hqueue⟩

/-- Settles O6, by the operations a step can perform. -/
theorem stepTakesOneOperationAndRecordsItsResult : Obligations.StepTakesOneOperationAndRecordsItsResult := by
  intro s t h
  obtain ⟨hp, rfl⟩ | ⟨b, rest, hp, -⟩ | ⟨rest, hp, rfl⟩ | ⟨i, rest, hp, rfl⟩ := step_next_cases h
  · rw [hp]; exact ⟨rfl, rfl⟩
  · obtain ⟨hpending, -, hobserved, -⟩ := step_clock_next hp h
    rw [hp]; exact ⟨hpending, hobserved⟩
  · rw [hp]; exact ⟨resetBlock_pending _, resetBlock_observed _⟩
  · rw [hp]; exact ⟨rfl, rfl⟩

/-- Settles O5: a `clock` is phase 1, the meaning of the decoded byte, and phase 1's byte as the result. -/
theorem stepRunsTheDecodedInstruction : Obligations.StepRunsTheDecodedInstruction := by
  rintro s b rest i hp rfl
  have hstep : step s = thenDo (phase2 b (phase1 (s.setPending rest)).2) fun t =>
      .next (t.observe (.byte (phase1 (s.setPending rest)).1)) := step_pending hp
  constructor
  · intro t hexec
    rw [hstep, phase2, instrAt, hexec]; rfl
  · intro r hexec
    rw [hstep, phase2, instrAt, hexec]; rfl

end Sys2Proof.Machine
end

section
/-! PROOFS. Phase 1 (40_clock_cycle R66): the queue, the register read-out, the status-bit simulation. -/

namespace Sys2Proof.Machine

/-- The count goes down, and the last register read ends the read-out. -/
theorem readingOrIdle_sub_one {k : Byte} (hk : 0 < k) :
    readingOrIdle (k - 1) = if k = 1 then .idle else .reading (k - 1) := by
  by_cases h1 : k = 1
  · rw [if_pos h1, h1, BitVec.sub_self]; exact readingOrIdle_zero
  · rw [if_neg h1]; exact readingOrIdle_pos (by bv_omega)

theorem phase1_reading {s : State} {k : Byte} (hq : s.queue = []) (hp : s.proto = .reading k) (hk : 0 < k) :
    phase1 s = readOut k s := by
  rw [phase1_empty hq, emptyQueueOutput, hp]; exact if_pos hk

/-- Outside a read-out phase 1 serves the queue, or answers 0. -/
theorem phase1_not_reading {s : State} (hp : ∀ k, 0 < k → s.proto ≠ .reading k) :
    phase1 s = (s.queue.headD 0, s.setQueue s.queue.tail) := by
  obtain ⟨b, q, hq, h⟩ | ⟨k, -, hk, hpos, -⟩ | ⟨hq, -, h⟩ := phase1_cases s
  · rw [h, hq]; rfl
  · exact absurd hk (hp k hpos)
  · rw [h, hq]
    exact congrArg (Prod.mk 0) (State.ext rfl rfl rfl rfl rfl hq rfl rfl rfl rfl rfl rfl)

theorem readOut_valid {s : State} (k : Byte) (h : s.ptr.toNat < Config.nReg) :
    readOut k s = (regGet (beforeRead s) s.ptr, (beforeRead s).advancePtr.setProto (readingOrIdle (k - 1))) :=
  if_pos (decide_eq_true h)

theorem readOut_void {s : State} (k : Byte) (h : Config.nReg ≤ s.ptr.toNat) :
    readOut k s = (0, s.setProto (readingOrIdle (k - 1))) :=
  if_neg (by simp [validAddr, h])

theorem statusSimApplies_iff (s : State) :
    statusSimApplies s = true ↔ s.statusSim = true ∧ s.ptr = s.params.addrStatus := by
  simp [statusSimApplies]

/-- Settles O7, by what the queue and the protocol state are. -/
theorem phaseOneServesTheQueueThenTheReadOut : Obligations.PhaseOneServesTheQueueThenTheReadOut := by
  intro s
  refine ⟨fun b q hq => phase1_queue hq, fun k hq hp hk hvalid hsim => ?register, fun k hq hp hk hvoid => ?void,
    fun hq hp => ?zero⟩
  case register =>
    have hoff : statusSimApplies s = false := by rwa [← statusSimApplies_iff, Bool.not_eq_true] at hsim
    rw [phase1_reading hq hp hk, readOut_valid k hvalid, beforeRead_off hoff, readingOrIdle_sub_one hk]; rfl
  case void => rw [phase1_reading hq hp hk, readOut_void k hvoid, readingOrIdle_sub_one hk]; rfl
  case zero =>
    rw [phase1_not_reading hp, hq]
    exact congrArg (Prod.mk 0) (State.ext rfl rfl rfl rfl rfl hq.symm rfl rfl rfl rfl rfl rfl)

/-! ### The read-out of STATUS with the simulation on (42_register_commands R82) -/

/-- The register that a read-out returns, as the read-out leaves it. -/
theorem beforeRead_regGet_ptr (s : State) (h : s.ptr.toNat < Config.nReg) :
    regGet (beforeRead s) s.ptr = if statusSimApplies s = true then simulatedStatus s else regGet s s.ptr := by
  rw [beforeRead_regGet]
  refine if_congr ⟨And.left, fun happlies => ⟨happlies, ?_, h⟩⟩ rfl rfl
  exact ((statusSimApplies_iff s).mp happlies).2

theorem beforeRead_statusReads_applies {s : State} (h : statusSimApplies s = true) :
    (beforeRead s).statusReads = countedOnce s.statusReads := by
  rw [beforeRead_statusReads, countedOnce]; simp only [h, true_and]

theorem readOut_value (k : Byte) (s : State) :
    (readOut k s).1 =
      if s.ptr.toNat < Config.nReg then (if statusSimApplies s = true then simulatedStatus s else regGet s s.ptr)
      else 0 := by
  split
  · next hvalid => rw [readOut_valid k hvalid, beforeRead_regGet_ptr s hvalid]
  · next hvoid => rw [readOut_void k (Nat.le_of_not_lt hvoid)]

theorem readOut_statusReads (k : Byte) (s : State) :
    (readOut k s).2.statusReads =
      if statusSimApplies s = true ∧ s.ptr.toNat < Config.nReg then countedOnce s.statusReads else s.statusReads := by
  by_cases hvalid : s.ptr.toNat < Config.nReg
  · rw [readOut_valid k hvalid]
    by_cases happlies : statusSimApplies s = true
    · rw [if_pos ⟨happlies, hvalid⟩]; exact beforeRead_statusReads_applies happlies
    · rw [if_neg fun h => happlies h.1, beforeRead_off (Bool.not_eq_true _ ▸ happlies)]; rfl
  · rw [readOut_void k (Nat.le_of_not_lt hvalid), if_neg fun h => hvalid h.2]; rfl

theorem readOut_regGet (k : Byte) (s : State) (a : Addr) :
    regGet (readOut k s).2 a =
      if statusSimApplies s = true ∧ a = s.ptr ∧ s.ptr.toNat < Config.nReg then simulatedStatus s else regGet s a := by
  by_cases hvalid : s.ptr.toNat < Config.nReg
  · rw [readOut_valid k hvalid]
    refine (regGet_congr rfl a).trans ((beforeRead_regGet s a).trans (if_congr ?_ rfl rfl))
    constructor
    · rintro ⟨happlies, rfl, -⟩
      exact ⟨happlies, ((statusSimApplies_iff s).mp happlies).2.symm, hvalid⟩
    · rintro ⟨happlies, rfl, -⟩
      exact ⟨happlies, ((statusSimApplies_iff s).mp happlies).2, hvalid⟩
  · rw [readOut_void k (Nat.le_of_not_lt hvalid), if_neg fun ⟨_, _, hv⟩ => hvalid hv]
    exact regGet_congr rfl a

/-- Settles O25: the simulation comes before the read, in the register itself. -/
theorem statusReadOutForcesThenClearsTheBusyBit : Obligations.StatusReadOutForcesThenClearsTheBusyBit := by
  rintro s k v hq hp hk hsim hptr hvalid rfl
  have happlies : statusSimApplies s = true := (statusSimApplies_iff s).mpr ⟨hsim, hptr⟩
  have hvalue : simulatedStatus s =
      if s.statusReads < 3 then regGet s s.ptr ||| s.params.busyMask else regGet s s.ptr &&& ~~~s.params.busyMask := by
    rw [hptr]; rfl
  rw [phase1_reading hq hp hk, ← hvalue]
  refine ⟨?output, fun a => ?registers, ?frame⟩
  case output => rw [readOut_valid k hvalid, beforeRead_regGet_ptr s hvalid, if_pos happlies]
  case registers => rw [readOut_regGet]; simp only [happlies, true_and, hvalid, and_true]
  case frame =>
    rw [readOut_valid k hvalid, beforeRead_frame, beforeRead_statusReads_applies happlies, readingOrIdle_sub_one hk]
    rfl

/-- The registers after phase 1: only the read-out of STATUS with the simulation on can change one, and only STATUS. -/
theorem phase1_regGet (s : State) (a : Addr) :
    regGet (phase1 s).2 a = regGet s a ∨
      (s.queue = [] ∧ (∃ k, s.proto = .reading k ∧ 0 < k) ∧ statusSimApplies s = true ∧ a = s.ptr ∧
        s.ptr.toNat < Config.nReg ∧ regGet (phase1 s).2 a = simulatedStatus s) := by
  obtain ⟨b, q, -, h⟩ | ⟨k, hq, hp, hk, h⟩ | ⟨-, -, h⟩ := phase1_cases s
  · exact .inl (by rw [h]; exact regGet_congr rfl a)
  · rw [h, readOut_regGet]
    split
    · next hc =>
      obtain ⟨happlies, ha, hvalid⟩ := hc
      exact .inr ⟨hq, ⟨k, hp, hk⟩, happlies, ha, hvalid, rfl⟩
    · exact .inl rfl
  · exact .inl (by rw [h])

theorem or_and_not_self (v m : Byte) : (v ||| m) &&& ~~~m = v &&& ~~~m := by
  ext i hi
  simp only [BitVec.getElem_and, BitVec.getElem_or, BitVec.getElem_not]
  cases v[i] <;> cases m[i] <;> rfl

/-- The simulation moves the busy bit and no other bit of STATUS. -/
theorem simulatedStatus_other_bits (s : State) :
    simulatedStatus s &&& ~~~s.params.busyMask = regGet s s.params.addrStatus &&& ~~~s.params.busyMask := by
  unfold simulatedStatus busyHigh busyLow
  split
  · exact or_and_not_self _ _
  · rw [BitVec.and_assoc, BitVec.and_self]

end Sys2Proof.Machine
end

section
/-! PROOFS. Phase 2 (40_clock_cycle R67, R68) on each protocol state, what a byte is in it, and when a step is refused. -/

namespace Sys2Proof.Machine

/-! ### Writes and counts in progress (42_register_commands R79, R80, R87) -/

/-- The count of a count byte, as the spec writes it (30_encoding R52). -/
theorem countOf_lowBits : ∀ b : Byte, countOf (b.extractLsb' 0 5) = (b &&& 0x1F) + 1 := by decide

theorem phase2_writing (b : Byte) {s : State} {k : Byte} (hp : s.proto = .writing k) (hk : 0 < k) :
    phase2 b s = .next ((storeAtPtr b s).setProto (writingOrIdle (k - 1))) := by
  rw [phase2_data b (by rw [hp, contextOf_writing hk])]
  exact execWdata_writing hp hk

theorem phase2_awaitCount (b : Byte) {s : State} {w : Bool} (hp : s.proto = .awaitCount w) :
    phase2 b s = .next (s.setProto (if w then .writing ((b &&& 0x1F) + 1) else .reading ((b &&& 0x1F) + 1))) := by
  rw [phase2_count b (by rw [hp, contextOf]), ← countOf_lowBits]
  exact execCount_await (b.extractLsb' 5 3) hp

/-- A `clock` in the middle of a write, whatever its byte. -/
theorem clock_writing (b : Byte) {s : State} {k : Byte} (hp : s.proto = .writing k) (hk : 0 < k) :
    clock b s =
      .next (((storeAtPtr b (s.setQueue s.queue.tail)).setProto (writingOrIdle (k - 1))).observe
        (.byte (s.queue.headD 0))) := by
  have h2 := phase2_writing b (s := s.setQueue s.queue.tail) hp hk
  rw [clock, phase1_not_reading (by simp [hp]), h2, thenDo_next]

/-- A `clock` before the count byte, whatever its byte. -/
theorem clock_awaitCount (b : Byte) {s : State} {w : Bool} (hp : s.proto = .awaitCount w) :
    clock b s =
      .next (((s.setQueue s.queue.tail).setProto
        (if w then .writing ((b &&& 0x1F) + 1) else .reading ((b &&& 0x1F) + 1))).observe (.byte (s.queue.headD 0))) := by
  have h2 := phase2_awaitCount b (s := s.setQueue s.queue.tail) hp
  rw [clock, phase1_not_reading (by simp [hp]), h2, thenDo_next]

/-- Settles O31: in both contexts the `clock` is one equation for all bytes. -/
theorem noByteCancelsAWriteOrACount : Obligations.NoByteCancelsAWriteOrACount := by
  intro s b
  constructor
  · intro k hp hk
    refine ⟨_, clock_writing b hp hk, ?registers, ?frame⟩
    case registers => exact fun a => (regGet_congr rfl a).trans (storeAtPtr_regGet b _ a)
    case frame => rw [storeAtPtr_frame, storeAtPtr_ptr, writingOrIdle_sub_one hk]; rfl
  · exact fun w hp => clock_awaitCount b hp

/-! ### The transition table (40_clock_cycle R68) -/

theorem encode_rreg_range : ∀ r : Addr, 0x20 ≤ encode (.rreg r) ∧ encode (.rreg r) ≤ 0x3F := by decide
theorem encode_wreg_range : ∀ r : Addr, 0x40 ≤ encode (.wreg r) ∧ encode (.wreg r) ≤ 0x5F := by decide

/-- A command byte outside the rows RREG and WREG leaves the protocol state. -/
theorem exec_decodeCommand_proto_eq {b : Byte} {s t : State} (h : exec (decodeCommand b) s = .next t)
    (hrreg : ¬ (0x20 ≤ b ∧ b ≤ 0x3F)) (hwreg : ¬ (0x40 ≤ b ∧ b ≤ 0x5F)) : t.proto = s.proto := by
  have hinv (i : Instr) (hi : decodeCommand b = i) : i.context = .command ∧ encode i = b := by
    obtain ⟨hwf, he⟩ := (decodeAndEncodeAreInverse .command b i).mp hi
    exact ⟨eq_of_beq hwf, he⟩
  obtain ⟨-, -, -, -, -, -, -, -, -, hproto, -⟩ := instructionFrame _ _ _ h
  refine hproto (fun r hi => ?_) (fun r hi => ?_) (fun d hi => ?_) (fun hh n hi => ?_)
  · exact hrreg ((hinv _ hi).2 ▸ encode_rreg_range r)
  · exact hwreg ((hinv _ hi).2 ▸ encode_wreg_range r)
  · exact absurd (hinv _ hi).1 (by simp [Instr.context])
  · exact absurd (hinv _ hi).1 (by simp [Instr.context])

theorem exec_decodeCommand_proto {b : Byte} {s t : State} (h : exec (decodeCommand b) s = .next t) :
    t.proto =
      if 0x20 ≤ b ∧ b ≤ 0x3F then .awaitCount false else if 0x40 ≤ b ∧ b ≤ 0x5F then .awaitCount true else s.proto := by
  split
  · next hb => rw [decodeCommand_rreg hb] at h; cases h; rfl
  · next hrreg =>
    split
    · next hb => rw [decodeCommand_wreg hb] at h; cases h; rfl
    · next hwreg => exact exec_decodeCommand_proto_eq h hrreg hwreg

/-- Settles O9, by the protocol state. -/
theorem phaseTwoTransitionTable : Obligations.PhaseTwoTransitionTable := by
  intro b s t h
  refine ⟨fun k hp hk => ?data, fun hp => ?readCount, fun hp => ?writeCount, fun hp => ?command⟩
  case data => rw [phase2_writing b hp hk] at h; cases h; exact writingOrIdle_sub_one hk
  case readCount => rw [phase2_awaitCount b hp] at h; cases h; rfl
  case writeCount => rw [phase2_awaitCount b hp] at h; cases h; rfl
  case command =>
    rw [phase2_command b (contextOf_of_idle_or_reading hp)] at h
    exact exec_decodeCommand_proto h

/-! ### Refusals (60_exceptions R100; log entries 3 and 19) -/

/-- A reading that joined the queue found room for both its bytes. -/
theorem enqueueReading_room {v : Reading} {s t : State} {d : Nat} (h : enqueueReading v s = .next t)
    (hd : s.params.queueDepth = some d) : s.queue.length + 2 ≤ d := by
  obtain ⟨u, h1, h2⟩ := thenDo_eq_next h
  obtain ⟨-, rfl⟩ := enqueue_next h1
  obtain ⟨hroom, -⟩ := enqueue_next h2
  simp [hasRoom, hd] at hroom
  omega

/-- RDATA answers the refusal exactly where its two bytes do not fit. -/
theorem execRdata_refused_iff (x : BitVec 1) (s : State) (r : Refusal) :
    execRdata x s = .refused r ↔ r = .queueFull ∧ ∃ d, s.params.queueDepth = some d ∧ d < s.queue.length + 2 := by
  constructor
  · intro h
    obtain ⟨t, hnext⟩ | hfull := execRdata_cases x s
    · rw [hnext] at h; cases h
    · refine ⟨by rw [hfull] at h; cases h; rfl, by_contra fun hfit => ?_⟩
      simp only [not_exists, not_and, Nat.not_lt] at hfit
      rw [execRdata_fits x hfit] at h
      cases h
  · rintro ⟨rfl, d, hd, hlt⟩
    obtain ⟨t, hnext⟩ | hfull := execRdata_cases x s
    · have := enqueueReading_room hnext (by rwa [readingSelect_params])
      rw [readingSelect_queue] at this
      omega
    · exact hfull

/-- Settles O17: the bound is where RDATA's refusal is. -/
theorem rdataBeyondABoundedQueueIsRefused : Obligations.RdataBeyondABoundedQueueIsRefused :=
  fun x s d hd hlt => (execRdata_refused_iff x s _).mpr ⟨rfl, d, hd, hlt⟩

/-- Settles O24: each meaning asks for its own protocol state. -/
theorem countAndWdataOutsideTheirContextAreRefused : Obligations.CountAndWdataOutsideTheirContextAreRefused := by
  intro s
  constructor
  · intro hi n hp
    rw [exec, execCount]
    cases hs : s.proto with
    | idle => rfl
    | awaitCount w => exact absurd hs (hp w)
    | reading k => rfl
    | writing k => rfl
  · intro d hp
    rw [exec, execWdata]
    cases hs : s.proto with
    | idle => rfl
    | awaitCount w => rfl
    | reading k => rfl
    | writing k => exact if_neg fun hk => hp k hk hs

/-- Every command byte but RDATA's two completes. -/
theorem exec_decodeCommand_completes {b : Byte} (s : State) (hrdata : ¬ (0x12 ≤ b ∧ b ≤ 0x13)) :
    ∃ t, exec (decodeCommand b) s = .next t := by
  by_cases hnop : b ≤ 0x01
  · rw [decodeCommand_nop hnop]; exact ⟨_, rfl⟩
  by_cases hrreg : 0x20 ≤ b ∧ b ≤ 0x3F
  · rw [decodeCommand_rreg hrreg]; exact ⟨_, rfl⟩
  by_cases hwreg : 0x40 ≤ b ∧ b ≤ 0x5F
  · rw [decodeCommand_wreg hwreg]; exact ⟨_, rfl⟩
  exact ⟨s, exec_decodeCommand_ignored s hrdata hnop hrreg hwreg⟩

/-- Phase 2 refuses nothing but an RDATA byte in the COMMAND context: the decoder gives COUNT and WDATA in their own contexts
only. -/
theorem phase2_refused {b : Byte} {s : State} {r : Refusal} (h : phase2 b s = .refused r) :
    contextOf s.proto = .command ∧ (0x12 ≤ b ∧ b ≤ 0x13) ∧ execRdata (lowField 1 b) s = .refused r := by
  cases hc : contextOf s.proto with
  | count =>
    obtain ⟨w, hp⟩ := contextOf_eq_count hc
    rw [phase2_awaitCount b hp] at h; cases h
  | data =>
    obtain ⟨k, hk, hp⟩ := contextOf_eq_data hc
    rw [phase2_writing b hp hk] at h; cases h
  | command =>
    rw [phase2_command b hc] at h
    by_cases hb : 0x12 ≤ b ∧ b ≤ 0x13
    · rw [decodeCommand_rdata hb] at h; exact ⟨rfl, hb, h⟩
    · obtain ⟨t, hnext⟩ := exec_decodeCommand_completes s hb
      rw [hnext] at h; cases h

theorem clock_refused {b : Byte} {s : State} {r : Refusal} (h : clock b s = .refused r) :
    r = .queueFull ∧ contextOf s.proto = .command ∧ (0x12 ≤ b ∧ b ≤ 0x13) ∧
      ∃ d, s.params.queueDepth = some d ∧ d < s.queue.tail.length + 2 := by
  have h2 : phase2 b (phase1 s).2 = .refused r := by
    rw [clock] at h
    cases hu : phase2 b (phase1 s).2 with
    | next u => rw [hu] at h; cases h
    | fault f => cases f
    | refused r' => rw [hu] at h; exact h
  obtain ⟨hcontext, hb, hrdata⟩ := phase2_refused h2
  rw [contextOf_phase1] at hcontext
  obtain ⟨hr, d, hd, hlt⟩ := (execRdata_refused_iff _ _ _).mp hrdata
  rw [phase1_params] at hd
  rw [phase1_queue_eq] at hlt
  exact ⟨hr, hcontext, hb, d, hd, hlt⟩

/-- Settles O13: a step is refused only through the `clock` it takes. -/
theorem onlyAFullBoundedQueueIsRefused : Obligations.OnlyAFullBoundedQueueIsRefused := by
  intro s r h
  cases hp : s.pending with
  | nil => rw [step_idle hp] at h; cases h
  | cons op rest =>
    rw [step_pending hp] at h
    cases op with
    | reset => cases h
    | snapshot i => cases h
    | clock b =>
      obtain ⟨hr, hcontext, hb, d, hd, hlt⟩ := clock_refused h
      exact ⟨hr, b, rest, d, rfl, hcontext, by bv_omega, hd, by rwa [← List.length_tail]⟩

/-- A step that is not refused completes. -/
theorem step_completes {s : State} (h : ∀ r, step s ≠ .refused r) : ∃ t, step s = .next t := by
  cases hs : step s with
  | next t => exact ⟨t, rfl⟩
  | fault f => cases f
  | refused r => exact absurd hs (h r)

/-- Settles O12: the one refusal needs a bound. -/
theorem everyOperationCompletesWithAnUnboundedQueue : Obligations.EveryOperationCompletesWithAnUnboundedQueue := by
  intro s hdepth
  refine step_completes fun r hr => ?_
  obtain ⟨-, b, rest, d, -, -, -, hd, -⟩ := onlyAFullBoundedQueueIsRefused s r hr
  rw [hdepth] at hd
  cases hd

/-! ### The registers (10_state R13) -/

/-- Outside the DATA context no byte is data, so phase 2 stores nothing. -/
theorem instrAt_ne_wdata {s : State} (b : Byte) (h : contextOf s.proto ≠ .data) (d : Byte) : instrAt s b ≠ .wdata d := by
  intro hi
  obtain ⟨hwf, -⟩ := (decodeAndEncodeAreInverse _ _ _).mp hi
  exact h (eq_of_beq hwf).symm

/-- Settles O34: in a write the data byte goes to the pointer's register; elsewhere phase 2 stores nothing, and phase 1 only
STATUS. -/
theorem registersChangeOnlyByDataBytesAndStatusSimulation :
    Obligations.RegistersChangeOnlyByDataBytesAndStatusSimulation := by
  intro s t b a h hne
  by_cases hdata : contextOf s.proto = .data
  · obtain ⟨k, hk, hp⟩ := contextOf_eq_data hdata
    obtain ⟨hwrite, -⟩ := noByteCancelsAWriteOrACount s b
    obtain ⟨t', h', hread, -⟩ := hwrite k hp hk
    obtain rfl : t' = t := by rw [h'] at h; cases h; rfl
    rw [hread a] at hne ⊢
    obtain ⟨⟨rfl, hvalid⟩, -⟩ := ite_ne_right_iff.mp hne
    exact ⟨rfl, hvalid, .inl ⟨k, hp, hk, if_pos ⟨rfl, hvalid⟩⟩⟩
  · obtain ⟨u, hexec, rfl⟩ := clock_next h
    obtain ⟨-, -, -, -, -, -, -, hregs, -⟩ := instructionFrame _ _ _ hexec
    have hkeep : regGet (u.observe (.byte (phase1 s).1)) a = regGet (phase1 s).2 a :=
      regGet_congr (hregs (instrAt_ne_wdata b (by rwa [contextOf_phase1]))) a
    rw [hkeep] at hne ⊢
    obtain hsame | ⟨hq, hread, happlies, rfl, hvalid, hval⟩ := phase1_regGet s a
    · exact absurd hsame hne
    · obtain ⟨hsim, hptr⟩ := (statusSimApplies_iff s).mp happlies
      refine ⟨rfl, hvalid, .inr ⟨hsim, hptr, hq, hread, ?_⟩⟩
      rw [hval, simulatedStatus_other_bits, ← hptr]

end Sys2Proof.Machine
end

section
/-! PROOFS. What every run keeps: the readings on the table of reset periods (43_sequencer R95), and the ranges of 10_state
R31. -/

namespace Sys2Proof.Machine

/-- What holds at the start of every run and is kept by every step holds of every reachable state. -/
theorem reachable_induction {P : State → Prop} (hstart : ∀ p sim ops, p.wf = true → P (startOf p sim ops))
    (hstep : ∀ s t, P s → step s = .next t → P t) {s : State} (h : Reachable s) : P s := by
  obtain ⟨p, sim, ops, n, hwf, hrun⟩ := h
  exact runSteps_keeps hstep (hstart p sim ops hwf) hrun

/-! ### The table of reset periods -/

/-- Settles O44: a reset draws the next row, and no other operation touches the generator or the readings. -/
theorem everyStepKeepsTheReadingsOnTheOrbit : Obligations.EveryStepKeepsTheReadingsOnTheOrbit := by
  intro s t j hj hrow h
  obtain ⟨hp, rfl⟩ | ⟨b, rest, hp, hclock⟩ | ⟨rest, hp, rfl⟩ | ⟨i, rest, hp, rfl⟩ := step_next_cases h
  · rw [hp]; exact hrow
  · obtain ⟨hreadings, hgen, -, -⟩ := clockKeepsReadingsGeneratorAndMode _ _ b hclock
    rw [hp, hreadings, hgen]; exact hrow
  · rw [hp]; exact resetBlock_orbitRow (s := s.setPending rest) hj (congrArg Prod.fst hrow)
  · rw [hp]; exact hrow

/-- The generator and the readings are a row of the table of reset periods (43_sequencer R95). -/
def OnOrbit (s : State) : Prop := ∃ j < 4, (s.gen, s.readings) = orbitRow j

theorem step_keeps_onOrbit {s t : State} (hs : OnOrbit s) (h : step s = .next t) : OnOrbit t := by
  obtain ⟨j, hj, hrow⟩ := hs
  exact ⟨_, by split <;> omega, everyStepKeepsTheReadingsOnTheOrbit s t j hj hrow h⟩

theorem reachable_onOrbit {s : State} (h : Reachable s) : OnOrbit s :=
  reachable_induction (fun p sim _ _ => ⟨0, by decide, powerOn_orbitRow p sim⟩) (fun _ _ => step_keeps_onOrbit) h

/-- Settles O43: every reachable state is on the orbit, and a reset draws the next row. -/
theorem readingsFollowTheOrbitOfTheSeed : Obligations.ReadingsFollowTheOrbitOfTheSeed := by
  intro s h
  obtain ⟨j, hj, hrow⟩ := reachable_onOrbit h
  exact ⟨j, hj, hrow, resetBlock_orbitRow hj (congrArg Prod.fst hrow)⟩

/-- Settles O45: neighbouring rows of the table differ at every index. -/
theorem consecutiveResetPeriodsDiffer : Obligations.ConsecutiveResetPeriodsDiffer := by
  intro s t rest hreach hp h i hi
  obtain ⟨j, hj, hrow⟩ := reachable_onOrbit hreach
  have hnext := everyStepKeepsTheReadingsOnTheOrbit s t j hj hrow h
  rw [hp, List.head?_cons, if_pos rfl] at hnext
  have hs : s.readings = (orbitRow j).2 := congrArg Prod.snd hrow
  have ht : t.readings = (orbitRow ((j + 1) % 4)).2 := congrArg Prod.snd hnext
  simp only [hs, ht]
  exact orbitRow_differs_next j hj i hi

/-! ### The ranges (10_state R31) -/

theorem protoInRange_readingOrIdle {k : Byte} (h : k.toNat ≤ 32) : protoInRange (readingOrIdle k) = true := by
  unfold readingOrIdle
  split
  · next hk => exact decide_eq_true ⟨by bv_omega, h⟩
  · rfl

theorem protoInRange_writingOrIdle {k : Byte} (h : k.toNat ≤ 32) : protoInRange (writingOrIdle k) = true := by
  unfold writingOrIdle
  split
  · next hk => exact decide_eq_true ⟨by bv_omega, h⟩
  · rfl

theorem protoInRange_countOf (n : BitVec 5) (w : Bool) :
    protoInRange (if w then .writing (countOf n) else .reading (countOf n)) = true := by
  have hcount := countOf_toNat n
  have hn := n.isLt
  cases w <;> exact decide_eq_true (by omega)

theorem phase1_protoInRange {s : State} (h : protoInRange s.proto = true) : protoInRange (phase1 s).2.proto = true := by
  obtain ⟨b, q, -, h1⟩ | ⟨k, -, hp, hk, h1⟩ | ⟨-, -, h1⟩ := phase1_cases s
  · rw [h1]; exact h
  · rw [hp] at h
    obtain ⟨-, hle⟩ := of_decide_eq_true h
    rw [h1, readOut_frame]
    exact protoInRange_readingOrIdle (by bv_omega)
  · rw [h1]; exact h

theorem exec_protoInRange {i : Instr} {s t : State} (h : protoInRange s.proto = true) (hexec : exec i s = .next t) :
    protoInRange t.proto = true := by
  obtain rfl | ⟨-, rfl⟩ | ⟨r, w, -, rfl⟩ | ⟨hi, n, w, -, -, rfl⟩ | ⟨d, k, -, hk, hp, rfl⟩ := exec_next_cases hexec
  · exact h
  · rw [State.setQueue_proto, readingSelect_proto]; exact h
  · rfl
  · exact protoInRange_countOf n w
  · rw [hp] at h
    obtain ⟨-, hle⟩ := of_decide_eq_true h
    exact protoInRange_writingOrIdle (by bv_omega)

/-- The count of STATUS reads after phase 1: as it was, or one more with the simulation on, up to 3. -/
theorem phase1_statusReads (s : State) :
    (phase1 s).2.statusReads = s.statusReads ∨
      (s.statusSim = true ∧ (phase1 s).2.statusReads = countedOnce s.statusReads) := by
  obtain ⟨b, q, -, h⟩ | ⟨k, -, -, -, h⟩ | ⟨-, -, h⟩ := phase1_cases s
  · exact .inl (by rw [h]; rfl)
  · rw [h, readOut_statusReads]
    split
    · next hc =>
      obtain ⟨happlies, -⟩ := hc
      exact .inr ⟨((statusSimApplies_iff s).mp happlies).1, rfl⟩
    · exact .inl rfl
  · exact .inl (by rw [h])

theorem countedOnce_le {n : Nat} (h : n ≤ Config.busyReads) : countedOnce n ≤ Config.busyReads := by
  unfold countedOnce; split <;> omega

theorem clock_keeps_ranges {b : Byte} {s t : State} (hs : RangesHold s) (h : clock b s = .next t) : RangesHold t := by
  obtain ⟨hproto, hcount, hoff⟩ := hs
  obtain ⟨-, -, hmode, -⟩ := clockKeepsReadingsGeneratorAndMode s t b h
  obtain ⟨u, hexec, rfl⟩ := clock_next h
  obtain ⟨-, -, -, -, hreads, -⟩ := instructionFrame _ _ _ hexec
  refine ⟨exec_protoInRange (t := u) (phase1_protoInRange hproto) hexec, ?_⟩
  rw [hmode, State.observe_statusReads, hreads]
  obtain hsame | ⟨hon, honce⟩ := phase1_statusReads s
  · rw [hsame]; exact ⟨hcount, hoff⟩
  · rw [honce, hon]; exact ⟨countedOnce_le hcount, fun h => by cases h⟩

theorem step_keeps_ranges {s t : State} (hs : RangesHold s) (h : step s = .next t) : RangesHold t := by
  obtain ⟨-, rfl⟩ | ⟨b, rest, -, hclock⟩ | ⟨rest, -, rfl⟩ | ⟨i, rest, -, rfl⟩ := step_next_cases h
  · exact hs
  · exact clock_keeps_ranges (s := s.setPending rest) hs hclock
  · simp [RangesHold, protoInRange]
  · exact hs

/-! ### The queue's bound (00_scope R9) -/

theorem withinDepth_iff (s : State) :
    withinDepth s = true ↔ ∀ d, s.params.queueDepth = some d → s.queue.length ≤ d := by
  unfold withinDepth
  split
  · next hd => simp [hd]
  · next d hd => simp [hd]

/-- An instruction that completes keeps the bound: RDATA completes where its bytes fit, and no other touches the queue. -/
theorem exec_keeps_withinDepth {i : Instr} {s t : State} (hs : withinDepth s = true) (h : exec i s = .next t) :
    withinDepth t = true := by
  obtain ⟨-, -, -, hparams, -, -, -, -, -, -, hqueue⟩ := instructionFrame i s t h
  rw [withinDepth_iff] at hs ⊢
  intro d hd
  rw [hparams] at hd
  by_cases hr : ∃ x, i = .rdata x
  · obtain ⟨x, rfl⟩ := hr
    have hroom := enqueueReading_room h (d := d) (by rwa [readingSelect_params])
    rw [execRdata_next x h]
    simpa using hroom
  · rw [(hqueue (not_exists.mp hr)).1]; exact hs d hd

theorem clock_keeps_withinDepth {b : Byte} {s t : State} (hs : withinDepth s = true) (h : clock b s = .next t) :
    withinDepth t = true := by
  obtain ⟨u, hexec, rfl⟩ := clock_next h
  refine exec_keeps_withinDepth (s := (phase1 s).2) (t := u) ?_ hexec
  rw [withinDepth_iff] at hs ⊢
  intro d hd
  rw [phase1_params] at hd
  have := hs d hd
  simp only [phase1_queue_eq, List.length_tail]
  omega

/-- Settles O53, part by part and operation by operation. -/
theorem everyStepKeepsTheInvariant : Obligations.EveryStepKeepsTheInvariant := by
  rintro s t ⟨hwf, hranges, hdepth, hlast⟩ h
  refine ⟨by rwa [step_params h], step_keeps_ranges hranges h, ?_⟩
  obtain ⟨-, rfl⟩ | ⟨b, rest, -, hclock⟩ | ⟨rest, -, rfl⟩ | ⟨i, rest, -, rfl⟩ := step_next_cases h
  · exact ⟨hdepth, hlast⟩
  · obtain ⟨hreadings, hgen, -, -⟩ := clockKeepsReadingsGeneratorAndMode _ _ b hclock
    refine ⟨clock_keeps_withinDepth (s := s.setPending rest) hdepth hclock, ?_⟩
    rw [hgen, hreadings]; exact hlast
  · refine ⟨withinDepth_of_queue_nil (resetBlock_queue _), ?_⟩
    rw [resetBlock_gen, resetBlock_readings _ 11 (by decide)]
  · exact ⟨hdepth, hlast⟩

/-- Settles O54: the ranges and the parameters are parts of the invariant. -/
theorem everyReachableStateIsInRange : Obligations.EveryReachableStateIsInRange := by
  intro s h
  obtain ⟨hwf, hranges, -⟩ := reachable_induction invariantHoldsAtEveryPowerOn everyStepKeepsTheInvariant h
  exact ⟨hranges, hwf⟩

end Sys2Proof.Machine
end

section
/-! PROOFS. The selected reading (41_simple_commands R73, 20_memory R43) and the delivery of the queue (20_memory R47). -/

namespace Sys2Proof.Machine

/-! ### The selected reading -/

/-- Settles O16, by the index: the stored reading below 12, else the parameter's choice. -/
theorem readingSelectTakesTheChannelOfInpmux : Obligations.ReadingSelectTakesTheChannelOfInpmux := by
  rintro s p rfl
  refine ⟨fun h => readingSelect_backed s h, fun h v hfixed => ?_, fun h hdraw => ?_⟩
  · rw [readingSelect_high s h, hiReading, hfixed]
  · rw [readingSelect_high s h, hiReading, hdraw]; rfl

/-- The selected reading depends on the channel index, the readings and the parameters; on the count of draws only where it is
a draw. -/
theorem readingSelect_fst_congr {s u : State} (hindex : channelIndex u = channelIndex s)
    (hreadings : u.readings = s.readings) (hparams : u.params = s.params)
    (hdraws : (channelIndex s).toNat < 12 ∨ (∃ v, s.params.hiIndexReading = .fixed v) ∨ u.draws = s.draws) :
    (readingSelect u).1 = (readingSelect s).1 := by
  by_cases hlow : (channelIndex s).toNat < Config.nChan
  · rw [readingSelect_backed s hlow, readingSelect_backed u (by rwa [hindex])]
    simp only [hindex, hreadings]
  · have hhigh : 12 ≤ (channelIndex s).toNat := Nat.le_of_not_lt hlow
    rw [readingSelect_high s hhigh, readingSelect_high u (by rwa [hindex]), hiReading, hiReading, hparams]
    obtain h | ⟨v, hv⟩ | hd := hdraws
    · exact absurd h hlow
    · rw [hv]
    · rw [hd]; cases s.params.hiIndexReading <;> rfl

theorem channelIndex_regSet_inpmux (s : State) (v : Byte) :
    channelIndex (regSet s s.params.addrInpmux v) =
      if s.params.addrInpmux.toNat < Config.nReg then muxp v else channelIndex s := by
  rw [channelIndex, regSet_params, regGet_regSet]
  split <;> simp_all [channelIndex]

/-- Settles O18: the index is the written value's high nibble, or, at a void address, as before. -/
theorem negativeChannelDoesNotAffectTheReading : Obligations.NegativeChannelDoesNotAffectTheReading := by
  intro s v w hnibble
  have hmuxp : muxp v = muxp w := hnibble
  exact readingSelect_fst_congr (by rw [channelIndex_regSet_inpmux, channelIndex_regSet_inpmux, hmuxp]) (by simp) (by simp)
    (.inr (.inr (by simp)))

/-- Within a reset period a step keeps the readings. -/
theorem step_readings {s t : State} (h : step s = .next t) (hreset : s.pending.head? ≠ some .reset) :
    t.readings = s.readings := by
  obtain ⟨-, rfl⟩ | ⟨b, rest, -, hclock⟩ | ⟨rest, hp, -⟩ | ⟨i, rest, -, rfl⟩ := step_next_cases h
  · rfl
  · obtain ⟨hreadings, -⟩ := clockKeepsReadingsGeneratorAndMode _ _ b hclock
    exact hreadings
  · rw [hp] at hreset; exact absurd rfl hreset
  · rfl

theorem step_pending_tail {s t : State} (h : step s = .next t) : t.pending = s.pending.tail :=
  (stepTakesOneOperationAndRecordsItsResult s t h).1

/-- Within a reset period a run keeps the readings and the parameters. -/
theorem runSteps_readings {n : Nat} {s t : State} (hreset : (s.pending.take n).all (fun op => !op.isReset) = true)
    (h : runSteps n s = .next t) : t.readings = s.readings ∧ t.params = s.params := by
  induction n generalizing s with
  | zero => cases h; exact ⟨rfl, rfl⟩
  | succ n ih =>
    rw [runSteps_succ] at h
    obtain ⟨u, hstep, hrun⟩ := thenDo_eq_next h
    have htail := step_pending_tail hstep
    have hhead : s.pending.head? ≠ some .reset ∧ (u.pending.take n).all (fun op => !op.isReset) = true := by
      rw [htail]
      cases hp : s.pending with
      | nil => simp
      | cons op rest =>
        rw [hp, List.take_succ_cons, List.all_cons, Bool.and_eq_true] at hreset
        obtain ⟨hop, hrest⟩ := hreset
        refine ⟨fun hfirst => ?_, hrest⟩
        obtain rfl : op = .reset := Option.some.inj hfirst
        cases hop
    obtain ⟨hfirst, hafter⟩ := hhead
    obtain ⟨hreadings, hparams⟩ := ih hafter hrun
    exact ⟨hreadings.trans (step_readings hstep hfirst), hparams.trans (step_params hstep)⟩

/-- Settles O39: the two selects have the index, the readings and the parameters in common. -/
theorem rdataIsIdempotentWithinAResetPeriod : Obligations.RdataIsIdempotentWithinAResetPeriod := by
  intro s t s' t' n x y hreset hrun hinpmux hindex hx hy
  obtain ⟨hreadings, hparams⟩ := runSteps_readings hreset hrun
  have hchannel : channelIndex t = channelIndex s := congrArg muxp hinpmux
  have hvalue := readingSelect_fst_congr hchannel hreadings hparams (hindex.imp_right .inl)
  refine ⟨(readingSelect s).1, ?_, ?_⟩
  · rw [execRdata_next x hx]; rfl
  · rw [execRdata_next y hy, hvalue]; rfl

/-! ### The delivery of the queue -/

/-- A step at a pending `clock` with the unbounded queue: it completes, whatever the byte. -/
theorem step_clock_unbounded {s : State} {b : Byte} {rest : List Op} (hdepth : s.params.queueDepth = none)
    (hp : s.pending = .clock b :: rest) :
    ∃ t, step s = .next t ∧ t.pending = rest ∧ t.params = s.params ∧
      t.observed = s.observed ++ [.byte (phase1 s).1] ∧
      t.queue = s.queue.tail ++ if ∃ x, instrAt (phase1 s).2 b = .rdata x then rdataBytes (phase1 s).2 else [] := by
  obtain ⟨t, hstep⟩ := everyOperationCompletesWithAnUnboundedQueue s hdepth
  exact ⟨t, hstep, step_clock_next hp hstep⟩

/-- The first bytes of the queue are the next outputs: what joins behind them does not come between. -/
theorem runSteps_serves_queue {s : State} {bs q behind : List Byte} {rest : List Op}
    (hdepth : s.params.queueDepth = none) (hq : s.queue = q ++ behind) (hlen : bs.length = q.length)
    (hp : s.pending = clocks bs ++ rest) :
    ∃ t, runSteps bs.length s = .next t ∧ t.pending = rest ∧ t.observed = s.observed ++ q.map .byte := by
  induction bs generalizing s q behind with
  | nil =>
    obtain rfl : q = [] := List.length_eq_zero_iff.mp hlen.symm
    exact ⟨s, rfl, hp, by simp⟩
  | cons b bs ih =>
    obtain ⟨c, q, rfl⟩ := List.exists_cons_of_length_eq_add_one hlen.symm
    obtain ⟨u, hstep, hpending, hparams, hobserved, hqueue⟩ := step_clock_unbounded hdepth hp
    rw [phase1_queue hq] at hobserved
    rw [hq, List.cons_append, List.tail_cons, List.append_assoc] at hqueue
    obtain ⟨t, hrun, hrest, hout⟩ := ih (by rw [hparams, hdepth]) hqueue (Nat.succ.inj hlen) hpending
    exact ⟨t, runSteps_cons hstep hrun, hrest, by rw [hout, hobserved]; simp⟩

/-- Settles O38: the queue after one step by the operations, its delivery over a run. -/
theorem queuedBytesComeOutOnceAndInOrder : Obligations.QueuedBytesComeOutOnceAndInOrder := by
  refine ⟨fun s t h => ?_, fun s bs rest hdepth hlen hp => ?_⟩
  · obtain ⟨hp, rfl⟩ | ⟨b, rest, hp, -⟩ | ⟨rest, hp, rfl⟩ | ⟨i, rest, hp, rfl⟩ := step_next_cases h
    · rw [hp]
    · obtain ⟨-, -, -, hqueue⟩ := step_clock_next hp h
      rw [hp]; exact hqueue
    · rw [hp]; exact resetBlock_queue _
    · rw [hp]; rfl
  · exact runSteps_serves_queue hdepth (List.append_nil _).symm hlen hp

theorem instrAt_rdata {s : State} {b : Byte} (hp : s.proto = .idle ∨ ∃ k, s.proto = .reading k)
    (hb : 0x12 ≤ b ∧ b ≤ 0x13) : instrAt s b = .rdata (lowField 1 b) := by
  rw [instrAt, contextOf_of_idle_or_reading hp]; exact decodeCommand_rdata hb

theorem instrAt_phase1 (s : State) (b : Byte) : instrAt (phase1 s).2 b = instrAt s b := by
  rw [instrAt, instrAt, contextOf_phase1]

/-- Settles O19: the RDATA's two bytes join the tail, and from then on the queue is delivered. -/
theorem rdataIsAnsweredBehindTheQueuedBytes : Obligations.RdataIsAnsweredBehindTheQueuedBytes := by
  intro s b bs rest hdepth hproto hb hp hlen
  obtain ⟨u, hstep, hpending, hparams, hobserved, hqueue⟩ := step_clock_unbounded hdepth hp
  rw [instrAt_phase1, instrAt_rdata hproto (by bv_omega), if_pos ⟨_, rfl⟩] at hqueue
  obtain ⟨t, hrun, hrest, hout⟩ := runSteps_serves_queue (behind := []) (by rw [hparams, hdepth])
    (hqueue.trans (List.append_nil _).symm) (by rw [hlen, List.length_append]; rfl) hpending
  refine ⟨t, runSteps_cons hstep hrun, hrest, ?_⟩
  rw [hout, hobserved, List.map_append, ← List.append_assoc]
  rfl

/-- Settles O32: the data byte is stored and ends the write, so the next byte is a command and selects by it. -/
theorem writeToInpmuxIsUsedByTheNextRdata : Obligations.WriteToInpmuxIsUsedByTheNextRdata := by
  intro s d x rest hdepth hproto hptr hvalid hindex hp
  obtain ⟨hwrite, -⟩ := noByteCancelsAWriteOrACount (s.setPending (.clock (encode (.rdata x)) :: rest)) d
  obtain ⟨u, hclock, hregs, hu⟩ := hwrite 1 hproto (by decide)
  have hstep : step s = .next u := (step_pending hp).trans hclock
  have huq : u.queue = s.queue.tail := by rw [hu]; rfl
  have hup : u.proto = .idle := by rw [hu]; rfl
  have hur : u.readings = s.readings := by rw [hu]; rfl
  obtain ⟨t, hstep', hpending, -, -, hqueue⟩ := step_clock_unbounded (s := u) (b := encode (.rdata x)) (rest := rest)
    (by rw [step_params hstep, hdepth]) (by rw [hu]; rfl)
  refine ⟨t, runSteps_cons hstep (runSteps_cons hstep' (runSteps_zero t)), hpending, ?_⟩
  have hinstr : instrAt u (encode (.rdata x)) = .rdata x := by
    rw [instrAt, hup]; exact decode_encode (.rdata x)
  have hparams : u.params = s.params := step_params hstep
  have hchannel : channelIndex (phase1 u).2 = d.extractLsb' 4 4 := by
    have hinpmux : regGet u s.params.addrInpmux = d := (hregs _).trans (if_pos ⟨hptr.symm, hvalid⟩)
    rw [phase1_not_reading (by simp [hup]), channelIndex, State.setQueue_params, hparams]
    exact congrArg muxp hinpmux
  have hread : (readingSelect (phase1 u).2).1 = s.readings[(d.extractLsb' 4 4).toNat] := by
    rw [readingSelect_backed _ (by rwa [hchannel])]
    simp only [hchannel, phase1_readings, hur]
  rw [hqueue, instrAt_phase1, hinstr, if_pos ⟨x, rfl⟩, huq, rdataBytes, hread]

end Sys2Proof.Machine
end

section
/-! PROOFS. Resynchronisation (70_reset_and_hazards R124): what a byte of 0x00 does in every protocol state, and how many of
them a state needs. -/

namespace Sys2Proof.Machine

/-- How many bytes of 0x00 a protocol state takes to end in `Idle`, the queue being empty: a count byte of 0x00 starts a
transfer of one register. -/
def transferCycles : Proto → Nat
  | .idle => 0
  | .awaitCount _ => 2
  | .reading k => k.toNat
  | .writing k => k.toNat

@[simp] theorem transferCycles_reading (k : Byte) : transferCycles (.reading k) = k.toNat := rfl
@[simp] theorem transferCycles_writing (k : Byte) : transferCycles (.writing k) = k.toNat := rfl

@[simp] theorem transferCycles_readingOrIdle (k : Byte) : transferCycles (readingOrIdle k) = k.toNat := by
  unfold readingOrIdle
  split
  · rfl
  · next hk => simp only [transferCycles]; bv_omega

@[simp] theorem transferCycles_writingOrIdle (k : Byte) : transferCycles (writingOrIdle k) = k.toNat := by
  unfold writingOrIdle
  split
  · rfl
  · next hk => simp only [transferCycles]; bv_omega

theorem transferCycles_le {p : Proto} (h : protoInRange p = true) : transferCycles p ≤ 32 := by
  cases p with
  | idle => exact Nat.zero_le _
  | awaitCount w => exact (by decide : 2 ≤ 32)
  | reading k => exact (of_decide_eq_true h).2
  | writing k => exact (of_decide_eq_true h).2

theorem idle_of_transferCycles_eq_zero {p : Proto} (h : protoInRange p = true) (h0 : transferCycles p = 0) :
    p = .idle := by
  cases p with
  | idle => rfl
  | awaitCount w => cases h0
  | reading k => obtain ⟨hpos, -⟩ := of_decide_eq_true h; simp only [transferCycles] at h0; omega
  | writing k => obtain ⟨hpos, -⟩ := of_decide_eq_true h; simp only [transferCycles] at h0; omega

/-- The bytes of 0x00 that leave a state in `Idle` with the queue empty. -/
def zeroBytesLeft (s : State) : Nat := s.queue.length + transferCycles s.proto

/-- Where phase 1 reads a register out or serves the queue, one cycle less is left. -/
theorem phase1_zeroBytesLeft {s : State} (h : s.proto = .idle ∨ ∃ k, s.proto = .reading k) :
    ((phase1 s).2.proto = .idle ∨ ∃ k, (phase1 s).2.proto = .reading k) ∧
      zeroBytesLeft (phase1 s).2 ≤ zeroBytesLeft s - 1 := by
  obtain ⟨b, q, hq, h1⟩ | ⟨k, hq, hp, hk, h1⟩ | ⟨hq, hzero, h1⟩ := phase1_cases s
  · rw [h1]
    exact ⟨h, by simp [zeroBytesLeft, hq]⟩
  · rw [h1, readOut_frame]
    refine ⟨?_, ?_⟩
    · unfold readingOrIdle; split
      · exact .inr ⟨_, rfl⟩
      · exact .inl rfl
    · simp only [zeroBytesLeft, hq, hp, transferCycles_readingOrIdle, transferCycles_reading]; bv_omega
  · rw [h1]
    refine ⟨h, ?_⟩
    obtain hp | ⟨k, hp⟩ := h
    · simp [zeroBytesLeft, hq, hp, transferCycles]
    · simp [zeroBytesLeft, hq, hp, transferCycles, hzero k hp]

theorem instrAt_zero_ne_rdata (s : State) : ¬ ∃ x, instrAt s 0 = .rdata x := by
  rintro ⟨x, hx⟩
  obtain ⟨-, he⟩ := (decodeAndEncodeAreInverse _ _ _).mp hx
  exact (by decide : ∀ x, encode (.rdata x) ≠ 0) x he

/-- A byte of 0x00 is a NOP, a count of one register or a data byte: it never makes work. -/
theorem clock_zero_zeroBytesLeft {s t : State} (hrange : protoInRange s.proto = true) (h : clock 0 s = .next t) :
    zeroBytesLeft t ≤ zeroBytesLeft s - 1 := by
  have hqueue : t.queue = s.queue.tail := by rw [clock_queue h, if_neg (instrAt_zero_ne_rdata _), List.append_nil]
  have hnop (hp : s.proto = .idle ∨ ∃ k, s.proto = .reading k) : zeroBytesLeft t ≤ zeroBytesLeft s - 1 := by
    obtain ⟨hp', hle⟩ := phase1_zeroBytesLeft hp
    obtain ⟨u, hexec, rfl⟩ := clock_next h
    obtain ⟨-, -, -, hproto⟩ := phaseTwoTransitionTable 0 (phase1 s).2 u hexec
    have hu : u.proto = (phase1 s).2.proto := (hproto hp').trans (by simp)
    rw [zeroBytesLeft, hqueue, State.observe_proto, hu]
    rwa [zeroBytesLeft, phase1_queue_eq] at hle
  cases hp : s.proto with
  | idle => exact hnop (.inl hp)
  | reading k => exact hnop (.inr ⟨k, hp⟩)
  | awaitCount w =>
    rw [clock_awaitCount 0 hp] at h
    cases h
    cases w <;> simp [zeroBytesLeft, hp, transferCycles]
  | writing k =>
    rw [hp] at hrange
    obtain ⟨hpos, -⟩ := of_decide_eq_true hrange
    rw [clock_writing 0 hp (by bv_omega)] at h
    cases h
    simp only [zeroBytesLeft, hp, transferCycles_writing, State.observe_queue, State.observe_proto, State.setProto_queue,
      State.setProto_proto, storeAtPtr_queue, State.setQueue_queue, transferCycles_writingOrIdle, List.length_tail]
    bv_omega

/-- A byte of 0x00 is never an RDATA, so no queue refuses it. -/
theorem step_zero_completes {s : State} {rest : List Op} (hp : s.pending = .clock 0 :: rest) : ∃ t, step s = .next t := by
  refine step_completes fun r hr => ?_
  obtain ⟨-, b, rest', d, hp', -, hb, -⟩ := onlyAFullBoundedQueueIsRefused s r hr
  rw [hp] at hp'
  cases hp'
  exact absurd hb (by decide)

theorem runSteps_zero_bytes {s : State} {rest : List Op} {n : Nat} (hs : RangesHold s) (hn : zeroBytesLeft s ≤ n)
    (hp : s.pending = clocks (List.replicate n 0) ++ rest) :
    ∃ t, runSteps n s = .next t ∧ t.proto = .idle ∧ t.queue = [] ∧ t.pending = rest := by
  induction n generalizing s with
  | zero =>
    obtain ⟨hqueue, hproto⟩ := Nat.add_eq_zero_iff.mp (Nat.le_zero.mp hn)
    exact ⟨s, rfl, idle_of_transferCycles_eq_zero hs.1 hproto, List.length_eq_zero_iff.mp hqueue, hp⟩
  | succ n ih =>
    obtain ⟨u, hstep⟩ := step_zero_completes hp
    have hclock := hstep
    rw [step_pending hp] at hclock
    have hleft : zeroBytesLeft u ≤ zeroBytesLeft s - 1 := 
      clock_zero_zeroBytesLeft (s := s.setPending (clocks (List.replicate n 0) ++ rest)) hs.1 hclock
    obtain ⟨t, hrun, ht⟩ := ih (step_keeps_ranges hs hstep) (by omega) (step_clock_next hp hstep).1
    exact ⟨t, runSteps_cons hstep hrun, ht⟩

/-- Settles O55: a state in range with `q` bytes queued needs at most `q + 32` bytes. -/
theorem zeroBytesResynchronise : Obligations.ZeroBytesResynchronise :=
  fun s _ hs hp => runSteps_zero_bytes hs (Nat.add_le_add_left (transferCycles_le hs.1) s.queue.length) hp

end Sys2Proof.Machine
end

section
/-! PROOFS. Whole frames (42_register_commands R83, R85): the pointer of a transfer, the head that frames share, and the write
frame. -/

namespace Sys2Proof.Machine

theorem clocks_append (as bs : List Byte) : clocks (as ++ bs) = clocks as ++ clocks bs := List.map_append

/-! ### The pointer of a transfer (42_register_commands R83) -/

theorem finalPtr_eq (r : Addr) (m : Nat) : finalPtr r m = if r.toNat < 18 then min (r.toNat + m) 18 else r.toNat := rfl

theorem finalPtr_zero (r : Addr) : finalPtr r 0 = r.toNat := by
  rw [finalPtr_eq]; split <;> omega

theorem accessed_iff (r : Addr) (m : Nat) (a : Addr) :
    accessed r m a = true ↔ r.toNat ≤ a.toNat ∧ a.toNat < r.toNat + m ∧ a.toNat < 18 := decide_eq_true_iff

theorem not_accessed_zero (r a : Addr) : ¬ accessed r 0 a = true := by
  rw [accessed_iff]; omega

section
variable {r p : Addr} {m : Nat} (hptr : p.toNat = finalPtr r m)
include hptr

/-- The pointer is at a valid address as long as the transfer is. -/
theorem ptr_valid_iff : p.toNat < 18 ↔ r.toNat + m < 18 := by
  rw [finalPtr_eq] at hptr
  split at hptr <;> omega

theorem ptr_eq_of_valid (hvalid : p.toNat < 18) : p.toNat = r.toNat + m := by
  rw [finalPtr_eq] at hptr
  split at hptr <;> omega

theorem ptr_after_access : (if p.toNat < 18 then p + 1 else p).toNat = finalPtr r (m + 1) := by
  rw [finalPtr_eq] at hptr ⊢
  split_ifs at hptr ⊢ <;> bv_omega

theorem accessed_succ_iff (a : Addr) :
    accessed r (m + 1) a = true ↔ accessed r m a = true ∨ (a = p ∧ p.toNat < 18) := by
  have hvalid := ptr_valid_iff hptr
  have heq := ptr_eq_of_valid hptr
  rw [accessed_iff, accessed_iff, ← BitVec.toNat_inj]
  omega

theorem not_accessed_ptr : ¬ accessed r m p = true := by
  have hvalid := ptr_valid_iff hptr
  have heq := ptr_eq_of_valid hptr
  rw [accessed_iff]
  omega

end

/-! ### What a transfer leaves unchanged -/

/-- `t` is `s` but for the registers, the pointer, the protocol state, the count of STATUS reads and the two lists of a run. -/
def TransferFrame (s t : State) : Prop :=
  { t with
    regs := s.regs, ptr := s.ptr, proto := s.proto, statusReads := s.statusReads, pending := s.pending,
    observed := s.observed } = s

theorem TransferFrame.eq {s t : State} (h : TransferFrame s t) :
    t = { s with
      regs := t.regs, ptr := t.ptr, proto := t.proto, statusReads := t.statusReads, pending := t.pending,
      observed := t.observed } :=
  congrArg (fun u : State =>
    { u with
      regs := t.regs, ptr := t.ptr, proto := t.proto, statusReads := t.statusReads, pending := t.pending,
      observed := t.observed }) h

theorem TransferFrame.params {s t : State} (h : TransferFrame s t) : t.params = s.params := by rw [h.eq]
theorem TransferFrame.statusSim {s t : State} (h : TransferFrame s t) : t.statusSim = s.statusSim := by rw [h.eq]
theorem TransferFrame.queue {s t : State} (h : TransferFrame s t) : t.queue = s.queue := by rw [h.eq]

/-! ### The first two bytes of a frame -/

/-- A command byte in `Idle` with the queue empty: the output is 0, and the byte is decoded. -/
theorem clock_idle (b : Byte) {s : State} (hproto : s.proto = .idle) (hq : s.queue = []) :
    clock b s = thenDo (exec (decodeCommand b) s) fun t => .next (t.observe (.byte 0)) := by
  have h1 : phase1 s = (0, s) := by
    obtain ⟨-, -, -, hzero⟩ := phaseOneServesTheQueueThenTheReadOut s
    exact hzero hq (by simp [hproto])
  rw [clock, h1, phase2_command b (by rw [hproto]; rfl)]

theorem count_byte_value : ∀ n : BitVec 5, (encode (.count 0 n) &&& 0x1F) + 1 = countOf n := by decide

/-- The state that the first two bytes of a frame leave: the transfer is about to start. -/
def State.afterHead (s : State) (w : Bool) (r : Addr) (n : BitVec 5) (ops : List Op) : State :=
  { s with
    ptr := r, proto := if w then .writing (countOf n) else .reading (countOf n), pending := ops,
    observed := s.observed ++ [.byte 0, .byte 0] }

theorem countOf_pos (n : BitVec 5) : 0 < countOf n := by
  have h := countOf_toNat n
  rw [BitVec.lt_def, h]; exact Nat.succ_pos _

theorem decodeCommand_firstByte (w : Bool) (r : Addr) :
    decodeCommand (encode (if w then .wreg r else .rreg r)) = if w then .wreg r else .rreg r := by
  cases w
  · exact decode_encode (.rreg r)
  · exact decode_encode (.wreg r)

theorem step_firstByte {s : State} {w : Bool} {r : Addr} {ops : List Op} (hproto : s.proto = .idle) (hq : s.queue = [])
    (hp : s.pending = .clock (encode (if w then .wreg r else .rreg r)) :: ops) :
    step s = .next ((startTransfer w r (s.setPending ops)).observe (.byte 0)) := by
  rw [step_pending hp]
  refine (clock_idle (s := s.setPending ops) _ hproto hq).trans ?_
  rw [decodeCommand_firstByte]
  cases w <;> rfl

theorem runSteps_frame_head {s : State} {w : Bool} {r : Addr} {n : BitVec 5} {ops : List Op} (hproto : s.proto = .idle)
    (hq : s.queue = [])
    (hp : s.pending = .clock (encode (if w then .wreg r else .rreg r)) :: .clock (encode (.count 0 n)) :: ops) :
    runSteps 2 s = .next (s.afterHead w r n ops) := by
  refine runSteps_cons (step_firstByte hproto hq hp) (runSteps_cons ?_ (runSteps_zero _))
  rw [step_pending rfl]
  refine (clock_awaitCount _ rfl).trans ?_
  rw [count_byte_value]
  refine congrArg Host.Outcome.next (State.ext rfl rfl rfl rfl rfl ?queue rfl rfl rfl rfl rfl ?observed)
  case queue => simp [startTransfer, State.afterHead, hq]
  case observed => simp [startTransfer, State.afterHead, hq]

/-! ### A write frame (42_register_commands R85) -/

/-- A data byte with the queue empty. -/
theorem step_writing {t : State} {k d : Byte} {rest : List Op} (hq : t.queue = []) (hproto : t.proto = .writing k)
    (hk : 0 < k) (hp : t.pending = .clock d :: rest) :
    ∃ u, step t = .next u ∧ (∀ a, regGet u a = if a = t.ptr ∧ t.ptr.toNat < 18 then d else regGet t a) ∧
      u = { t with
        regs := u.regs, ptr := if t.ptr.toNat < 18 then t.ptr + 1 else t.ptr, proto := writingOrIdle (k - 1),
        pending := rest, observed := t.observed ++ [.byte 0] } := by
  obtain ⟨hwrite, -⟩ := noByteCancelsAWriteOrACount (t.setPending rest) d
  obtain ⟨u, hclock, hregs, hu⟩ := hwrite k hproto hk
  refine ⟨u, (step_pending hp).trans hclock, hregs, ?_⟩
  rw [State.setPending_queue, hq, ← writingOrIdle_sub_one hk] at hu
  exact hu.trans (State.ext rfl rfl rfl rfl rfl hq.symm rfl rfl rfl rfl rfl rfl)

/-- `t` is `s` with the bytes `data` written from `r` on, one `clock` each. -/
structure WriteDone (s : State) (r : Addr) (data : List Byte) (t : State) : Prop where
  regs : ∀ a, regGet t a = if accessed r data.length a = true then data.getD (a.toNat - r.toNat) 0 else regGet s a
  ptr : t.ptr.toNat = finalPtr r data.length
  statusReads : t.statusReads = s.statusReads
  observed : t.observed = s.observed ++ List.replicate data.length (.byte 0)
  frame : TransferFrame s t

theorem writeDone_nil (s : State) : WriteDone s s.ptr [] s where
  regs a := (if_neg (not_accessed_zero _ a)).symm
  ptr := (finalPtr_zero _).symm
  statusReads := rfl
  observed := (List.append_nil _).symm
  frame := rfl

/-- The register file after one more data byte. -/
theorem WriteDone.regs_append {s t : State} {r : Addr} {data : List Byte} (h : WriteDone s r data t) (d : Byte) (a : Addr) :
    (if a = t.ptr ∧ t.ptr.toNat < 18 then d else regGet t a) =
      if accessed r (data.length + 1) a = true then (data ++ [d]).getD (a.toNat - r.toNat) 0 else regGet s a := by
  have hsucc := accessed_succ_iff h.ptr a
  by_cases ha : a = t.ptr ∧ t.ptr.toNat < 18
  · rw [if_pos ha, if_pos (hsucc.mpr (.inr ha))]
    obtain ⟨rfl, hvalid⟩ := ha
    rw [ptr_eq_of_valid h.ptr hvalid, Nat.add_sub_cancel_left]
    simp
  · rw [if_neg ha, h.regs a]
    by_cases hacc : accessed r data.length a = true
    · rw [if_pos hacc, if_pos (hsucc.mpr (.inl hacc))]
      rw [accessed_iff] at hacc
      exact (List.getD_append _ _ _ _ (by omega)).symm
    · rw [if_neg hacc, if_neg fun hc => (hsucc.mp hc).elim hacc ha]

theorem WriteDone.step {s t : State} {r : Addr} {data : List Byte} {k d : Byte} {rest : List Op}
    (h : WriteDone s r data t) (hq : s.queue = []) (hproto : t.proto = .writing k) (hk : 0 < k)
    (hp : t.pending = .clock d :: rest) :
    ∃ u, Machine.step t = .next u ∧ WriteDone s r (data ++ [d]) u ∧ u.proto = writingOrIdle (k - 1) ∧ u.pending = rest := by
  obtain ⟨u, hstep, hregs, hu⟩ := step_writing (h.frame.queue.trans hq) hproto hk hp
  refine ⟨u, hstep, ⟨fun a => ?regs, ?ptr, ?statusReads, ?observed, ?frame⟩, by rw [hu], by rw [hu]⟩
  case regs => rw [hregs a, h.regs_append d a, List.length_append, List.length_singleton]
  case ptr => rw [hu, List.length_append]; exact ptr_after_access h.ptr
  case statusReads => rw [hu]; exact h.statusReads
  case observed =>
    rw [hu, List.length_append, List.length_singleton, List.replicate_succ', ← List.append_assoc, ← h.observed]
  case frame => rw [hu]; exact h.frame

/-- The data bytes that are left of a write, one by one. -/
theorem runSteps_write {s t : State} {r : Addr} {data todo : List Byte} {k : Byte} {rest : List Op}
    (h : WriteDone s r data t) (hq : s.queue = []) (hproto : t.proto = writingOrIdle k) (hk : k.toNat = todo.length)
    (hp : t.pending = clocks todo ++ rest) :
    ∃ u, runSteps todo.length t = .next u ∧ WriteDone s r (data ++ todo) u ∧ u.proto = .idle ∧ u.pending = rest := by
  induction todo generalizing t data k with
  | nil =>
    obtain rfl : k = 0 := BitVec.eq_of_toNat_eq hk
    exact ⟨t, rfl, by rwa [List.append_nil], hproto, hp⟩
  | cons d todo ih =>
    rw [List.length_cons] at hk
    have hpos : 0 < k := by bv_omega
    obtain ⟨v, hstep, hdone, hv, hpending⟩ := h.step hq (hproto.trans (writingOrIdle_pos hpos)) hpos hp
    obtain ⟨u, hrun, hu⟩ := ih hdone hv (by bv_omega) hpending
    rw [List.append_assoc] at hu
    exact ⟨u, runSteps_cons hstep hrun, hu⟩

/-- Settles O29: the head of the frame, then its data bytes. -/
theorem wregFrameStoresTheData : Obligations.WregFrameStoresTheData := by
  intro s r n data rest hproto hq hlen hp
  have hhead := runSteps_frame_head (w := true) hproto hq hp
  obtain ⟨t, hrun, hdone, hidle, hpending⟩ := runSteps_write (writeDone_nil (s.afterHead true r n (clocks data ++ rest))) hq
    (writingOrIdle_pos (countOf_pos n)).symm (by rw [countOf_toNat, hlen]) rfl
  rw [List.nil_append] at hdone
  have hlen3 : n.toNat + 3 = 2 + data.length := by omega
  refine ⟨t, ?run, ?observed, fun a => ?regs, ?ptr, ?frame⟩
  case run => rw [hlen3]; exact runSteps_trans hhead hrun
  case observed =>
    rw [hdone.observed, hlen3, List.replicate_add, ← List.append_assoc]; rfl
  case regs => rw [← hlen]; exact hdone.regs a
  case ptr => rw [← hlen]; exact hdone.ptr
  case frame =>
    refine hdone.frame.eq.trans ?_
    rw [hidle, hdone.statusReads, hpending, ← hproto]; rfl

end Sys2Proof.Machine
end

section
/-! PROOFS. Read frames (42_register_commands R84, R86), and the reads of STATUS after a reset (R82). -/

namespace Sys2Proof.Machine

/-! ### A read frame (42_register_commands R84) -/

/-- A NOP byte in a read-out: phase 1 reads a register out, and phase 2 does nothing. -/
theorem clock_reading_nop {b : Byte} {s : State} {k : Byte} (hq : s.queue = []) (hproto : s.proto = .reading k) (hk : 0 < k)
    (hb : b = 0x00 ∨ b = 0x01) : clock b s = .next ((readOut k s).2.observe (.byte (readOut k s).1)) := by
  have hcontext : contextOf (phase1 s).2.proto = .command := by rw [contextOf_phase1, hproto, contextOf]
  rw [clock, phase2_command b hcontext, decodeCommand_nop (by bv_omega), phase1_reading hq hproto hk]
  rfl

/-- `t` is `s` after the read-out of `m` registers from `r` on, one `clock` each. -/
structure ReadDone (s : State) (r : Addr) (m : Nat) (t : State) : Prop where
  regs : ∀ a, regGet t a =
    if s.statusSim = true ∧ a = s.params.addrStatus ∧ accessed r m a = true then simulatedStatus s else regGet s a
  ptr : t.ptr.toNat = finalPtr r m
  statusReads : t.statusReads =
    if s.statusSim = true ∧ accessed r m s.params.addrStatus = true then countedOnce s.statusReads else s.statusReads
  observed : t.observed = s.observed ++ (List.range m).map fun i => .byte (frameValue s r i)
  frame : TransferFrame s t

theorem readDone_zero (s : State) : ReadDone s s.ptr 0 s where
  regs a := (if_neg fun ⟨_, _, hacc⟩ => not_accessed_zero _ a hacc).symm
  ptr := (finalPtr_zero _).symm
  statusReads := (if_neg fun ⟨_, hacc⟩ => not_accessed_zero _ _ hacc).symm
  observed := (List.append_nil _).symm
  frame := rfl

section
variable {s t : State} {r : Addr} {m : Nat} (h : ReadDone s r m t)
include h

theorem ReadDone.applies_iff : statusSimApplies t = true ↔ s.statusSim = true ∧ t.ptr = s.params.addrStatus := by
  rw [statusSimApplies_iff, h.frame.statusSim, h.frame.params]

/-- A transfer reads an address once: the register at the pointer is still as before the frame. -/
theorem ReadDone.regGet_ptr : regGet t t.ptr = regGet s t.ptr :=
  (h.regs _).trans (if_neg fun ⟨_, _, hacc⟩ => not_accessed_ptr h.ptr hacc)

theorem ReadDone.statusReads_of_ptr (hptr : t.ptr = s.params.addrStatus) : t.statusReads = s.statusReads :=
  h.statusReads.trans (if_neg fun ⟨_, hacc⟩ => not_accessed_ptr h.ptr (hptr ▸ hacc))

/-- So the simulation gives the value that it would have given before the frame. -/
theorem ReadDone.simulatedStatus_eq (hptr : t.ptr = s.params.addrStatus) : simulatedStatus t = simulatedStatus s := by
  have hstatus : regGet t s.params.addrStatus = regGet s s.params.addrStatus := hptr ▸ h.regGet_ptr
  rw [simulatedStatus, simulatedStatus, busyHigh, busyLow, busyHigh, busyLow, h.frame.params, hstatus,
    h.statusReads_of_ptr hptr]

/-- What the next read-out returns. -/
theorem ReadDone.readOut_value (k : Byte) : (readOut k t).1 = frameValue s r m := by
  rw [Machine.readOut_value, frameValue]
  by_cases hvalid : t.ptr.toNat < Config.nReg
  · have haddr : BitVec.ofNat 5 (r.toNat + m) = t.ptr := by
      rw [← ptr_eq_of_valid h.ptr hvalid, BitVec.ofNat_toNat, BitVec.setWidth_eq]
    rw [if_pos hvalid, if_pos ((ptr_valid_iff h.ptr).mp hvalid), haddr, h.regGet_ptr]
    by_cases happlies : statusSimApplies t = true
    · have hc := h.applies_iff.mp happlies
      rw [if_pos happlies, if_pos hc, h.simulatedStatus_eq hc.2]
    · rw [if_neg happlies, if_neg (mt h.applies_iff.mpr happlies)]
  · rw [if_neg hvalid, if_neg (mt (ptr_valid_iff h.ptr).mpr hvalid)]

/-- The register file after the next read-out. -/
theorem ReadDone.readOut_regGet (k : Byte) (a : Addr) :
    regGet (readOut k t).2 a =
      if s.statusSim = true ∧ a = s.params.addrStatus ∧ accessed r (m + 1) a = true then simulatedStatus s
      else regGet s a := by
  have hsucc := accessed_succ_iff h.ptr a
  rw [Machine.readOut_regGet]
  by_cases hc : statusSimApplies t = true ∧ a = t.ptr ∧ t.ptr.toNat < 18
  · obtain ⟨happlies, ha, hvalid⟩ := hc
    obtain ⟨hsim, hptr⟩ := h.applies_iff.mp happlies
    rw [if_pos ⟨happlies, ha, hvalid⟩, if_pos ⟨hsim, ha.trans hptr, hsucc.mpr (.inr ⟨ha, hvalid⟩)⟩, h.simulatedStatus_eq hptr]
  · rw [if_neg hc, h.regs a]
    refine if_congr ?_ rfl rfl
    constructor
    · exact fun ⟨hsim, ha, hacc⟩ => ⟨hsim, ha, hsucc.mpr (.inl hacc)⟩
    · rintro ⟨hsim, ha, hacc⟩
      obtain hacc | ⟨hptr, hvalid⟩ := hsucc.mp hacc
      · exact ⟨hsim, ha, hacc⟩
      · exact absurd ⟨h.applies_iff.mpr ⟨hsim, hptr ▸ ha⟩, hptr, hvalid⟩ hc

/-- The count of STATUS reads after the next read-out. -/
theorem ReadDone.readOut_statusReads (k : Byte) :
    (readOut k t).2.statusReads =
      if s.statusSim = true ∧ accessed r (m + 1) s.params.addrStatus = true then countedOnce s.statusReads
      else s.statusReads := by
  have hsucc := accessed_succ_iff h.ptr s.params.addrStatus
  rw [Machine.readOut_statusReads]
  by_cases hc : statusSimApplies t = true ∧ t.ptr.toNat < 18
  · obtain ⟨happlies, hvalid⟩ := hc
    obtain ⟨hsim, hptr⟩ := h.applies_iff.mp happlies
    rw [if_pos ⟨happlies, hvalid⟩, if_pos ⟨hsim, hsucc.mpr (.inr ⟨hptr.symm, hvalid⟩)⟩, h.statusReads_of_ptr hptr]
  · rw [if_neg hc, h.statusReads]
    refine if_congr ?_ rfl rfl
    constructor
    · exact fun ⟨hsim, hacc⟩ => ⟨hsim, hsucc.mpr (.inl hacc)⟩
    · rintro ⟨hsim, hacc⟩
      obtain hacc | ⟨hptr, hvalid⟩ := hsucc.mp hacc
      · exact ⟨hsim, hacc⟩
      · exact absurd ⟨h.applies_iff.mpr ⟨hsim, hptr.symm⟩, hvalid⟩ hc

theorem ReadDone.step {k b : Byte} {rest : List Op} (hq : s.queue = []) (hproto : t.proto = .reading k) (hk : 0 < k)
    (hb : b = 0x00 ∨ b = 0x01) (hp : t.pending = .clock b :: rest) :
    ∃ u, Machine.step t = .next u ∧ ReadDone s r (m + 1) u ∧ u.proto = readingOrIdle (k - 1) ∧ u.pending = rest := by
  have hclock := clock_reading_nop (s := t.setPending rest) (h.frame.queue.trans hq) hproto hk hb
  rw [readOut_setPending] at hclock
  refine ⟨_, (step_pending hp).trans hclock, ⟨fun a => ?regs, ?ptr, ?statusReads, ?observed, ?frame⟩, ?proto, rfl⟩
  case regs => exact (regGet_congr rfl a).trans (h.readOut_regGet k a)
  case ptr => exact (congrArg BitVec.toNat (readOut_ptr k t)).trans (ptr_after_access h.ptr)
  case statusReads => exact h.readOut_statusReads k
  case observed =>
    have hobserved : (readOut k t).2.observed = t.observed := by rw [readOut_frame]
    rw [State.observe_observed, State.setPending_observed, hobserved, h.observed, h.readOut_value, List.range_succ,
      List.map_append, List.append_assoc]
    rfl
  case frame => rw [readOut_frame]; exact h.frame
  case proto => rw [State.observe_proto, State.setPending_proto, readOut_frame]

end

/-- The registers that are left of a read-out, one by one. -/
theorem runSteps_read {s t : State} {r : Addr} {m : Nat} {fill : List Byte} {k : Byte} {rest : List Op}
    (h : ReadDone s r m t) (hq : s.queue = []) (hproto : t.proto = readingOrIdle k) (hk : k.toNat = fill.length)
    (hfill : ∀ b ∈ fill, b = 0x00 ∨ b = 0x01) (hp : t.pending = clocks fill ++ rest) :
    ∃ u, runSteps fill.length t = .next u ∧ ReadDone s r (m + fill.length) u ∧ u.proto = .idle ∧ u.pending = rest := by
  induction fill generalizing t m k with
  | nil =>
    obtain rfl : k = 0 := BitVec.eq_of_toNat_eq hk
    exact ⟨t, rfl, h, hproto, hp⟩
  | cons b fill ih =>
    rw [List.length_cons] at hk
    have hpos : 0 < k := by bv_omega
    obtain ⟨hb, hrest⟩ := List.forall_mem_cons.mp hfill
    obtain ⟨v, hstep, hdone, hv, hpending⟩ := h.step hq (hproto.trans (readingOrIdle_pos hpos)) hpos hb hp
    obtain ⟨u, hrun, hu⟩ := ih hdone hv (by bv_omega) hrest hpending
    rw [Nat.add_assoc, Nat.add_comm 1] at hu
    exact ⟨u, runSteps_cons hstep hrun, hu⟩

/-- Settles O28: the head of the frame, then its read-outs. -/
theorem rregFrameReturnsTheRegisters : Obligations.RregFrameReturnsTheRegisters := by
  intro s r n fill rest hproto hq hlen hfill hp
  have hhead := runSteps_frame_head (w := false) hproto hq hp
  obtain ⟨t, hrun, hdone, hidle, hpending⟩ := runSteps_read (readDone_zero (s.afterHead false r n (clocks fill ++ rest))) hq
    (readingOrIdle_pos (countOf_pos n)).symm (by rw [countOf_toNat, hlen]) hfill rfl
  rw [Nat.zero_add, hlen] at hdone
  have hlen3 : n.toNat + 3 = 2 + fill.length := by omega
  refine ⟨t, ?run, hdone.observed, hdone.regs, hdone.ptr, hdone.statusReads, ?frame⟩
  case run => rw [hlen3]; exact runSteps_trans hhead hrun
  case frame =>
    refine hdone.frame.eq.trans ?_
    rw [hidle, hpending, ← hproto]; rfl

/-! ### A write and a read of one register (42_register_commands R86) -/

/-- The first value of a read frame at a valid address. -/
theorem frameValue_zero (s : State) {r : Addr} (h : r.toNat < 18) :
    frameValue s r 0 = if s.statusSim = true ∧ r = s.params.addrStatus then simulatedStatus s else regGet s r := by
  rw [frameValue, Nat.add_zero, if_pos h, BitVec.ofNat_toNat, BitVec.setWidth_eq]

theorem accessed_one_iff {r : Addr} (h : r.toNat < 18) (a : Addr) : accessed r 1 a = true ↔ a = r := by
  rw [accessed_iff, ← BitVec.toNat_inj]; omega

/-- The value of STATUS that the simulation makes of `v` after `count` reads (42_register_commands R82). -/
def polledStatus (p : Params) (count : Nat) (v : Byte) : Byte :=
  if count < Config.busyReads then v ||| p.busyMask else v &&& ~~~p.busyMask

theorem simulatedStatus_eq_polledStatus (s : State) :
    simulatedStatus s = polledStatus s.params s.statusReads (regGet s s.params.addrStatus) := rfl

/-- Settles O30: the write frame leaves the value in the register, and the read frame returns it. -/
theorem writeThenReadReturnsTheValue : Obligations.WriteThenReadReturnsTheValue := by
  intro s a v rest hproto hq hvalid hp
  rw [clocks_append, List.append_assoc] at hp
  obtain ⟨u, hwrite, hout, hregs, -, hu⟩ := wregFrameStoresTheData s a 0 [v] _ hproto hq rfl hp
  obtain ⟨t, hread, hout', -, -, -, ht⟩ := rregFrameReturnsTheRegisters u a 0 [0x00] rest (by rw [hu, hproto])
    (by rw [hu, hq]) rfl (by simp) (by rw [hu])
  have hstored : regGet u a = v := by
    rw [hregs a]
    exact (if_pos ((accessed_one_iff hvalid a).mpr rfl)).trans (by simp)
  have hvalue : frameValue u a 0 =
      if s.statusSim = true ∧ a = s.params.addrStatus then polledStatus s.params s.statusReads v else v := by
    have hmode : u.statusSim = s.statusSim := by rw [hu]
    have hparams : u.params = s.params := by rw [hu]
    have hreads : u.statusReads = s.statusReads := by rw [hu]
    rw [frameValue_zero u hvalid, hmode, hparams, hstored]
    split
    · next hc =>
      obtain ⟨-, hstatus⟩ := hc
      rw [simulatedStatus_eq_polledStatus, hparams, hreads, ← hstatus, hstored]
    · rfl
  refine ⟨t, runSteps_trans hwrite hread, by rw [ht], by rw [ht, hu, hproto], by rw [ht, hu, hq], ?_⟩
  have hmap : (List.range ((0 : BitVec 5).toNat + 1)).map (fun i => Result.byte (frameValue u a i)) =
      [.byte (frameValue u a 0)] := rfl
  rw [hout', hout, hmap, hvalue, List.append_assoc, List.append_assoc]
  rfl

/-! ### The reads of STATUS after a reset (42_register_commands R82) -/

/-- `s` is between two frames with the simulation on, `count` reads of STATUS behind it, `status` in the register, and `ops`
ahead. -/
structure BetweenPolls (p : Params) (count : Nat) (status : Byte) (ops : List Op) (s : State) : Prop where
  params : s.params = p
  statusSim : s.statusSim = true
  proto : s.proto = .idle
  queue : s.queue = []
  statusReads : s.statusReads = count
  status : regGet s p.addrStatus = status
  pending : s.pending = ops

/-- One single-register read of STATUS. -/
theorem BetweenPolls.poll {p : Params} {count : Nat} {status : Byte} {ops : List Op} {s : State}
    (h : BetweenPolls p count status (clocks (rregFrame p.addrStatus 0 [0]) ++ ops) s) (hvalid : p.addrStatus.toNat < 18) :
    ∃ t, runSteps 3 s = .next t ∧ BetweenPolls p (countedOnce count) (polledStatus p count status) ops t ∧
      t.observed = s.observed ++ [.byte 0, .byte 0, .byte (polledStatus p count status)] := by
  obtain ⟨rfl, hsim, hproto, hq, rfl, rfl, hp⟩ := h
  obtain ⟨t, hrun, hout, hregs, -, hreads, ht⟩ :=
    rregFrameReturnsTheRegisters s s.params.addrStatus 0 [0] ops hproto hq rfl (by simp) hp
  have hacc : accessed s.params.addrStatus 1 s.params.addrStatus = true := (accessed_one_iff hvalid _).mpr rfl
  have hvalue : frameValue s s.params.addrStatus 0 = simulatedStatus s :=
    (frameValue_zero s hvalid).trans (if_pos ⟨hsim, rfl⟩)
  refine ⟨t, hrun, ⟨by rw [ht], by rw [ht, hsim], by rw [ht, hproto], by rw [ht, hq], ?reads, ?status, by rw [ht]⟩, ?output⟩
  case reads => exact hreads.trans (if_pos ⟨hsim, hacc⟩)
  case status => exact (hregs _).trans (if_pos ⟨hsim, rfl, hacc⟩)
  case output =>
    have hmap : (List.range ((0 : BitVec 5).toNat + 1)).map (fun i => Result.byte (frameValue s s.params.addrStatus i)) =
        [.byte (frameValue s s.params.addrStatus 0)] := rfl
    rw [hout, hmap, hvalue, List.append_assoc]
    rfl

theorem addrStatus_valid_of_wf {p : Params} (h : p.wf = true) : p.addrStatus.toNat < 18 := by
  simp only [Params.wf, Bool.and_eq_true] at h
  obtain ⟨⟨⟨hbacked, -⟩, -⟩, -⟩ := h
  exact of_decide_eq_true (List.all_eq_true.mp hbacked p.addrStatus (by simp [Params.addrs]))

/-- A reset with the simulation on leaves STATUS at its default and no read counted. -/
theorem resetBlock_betweenPolls {s : State} {ops : List Op} (hwf : s.params.wf = true) (hsim : s.statusSim = true) :
    BetweenPolls s.params 0 0x80 ops (resetBlock (s.setPending ops)) where
  params := resetBlock_params _
  statusSim := (resetBlock_statusSim _).trans hsim
  proto := resetBlock_proto _
  queue := resetBlock_queue _
  statusReads := resetBlock_statusReads _
  status := by
    obtain ⟨-, hstatus, -⟩ := defaultTable s.params hwf
    exact (resetBlock_regGet (s.setPending ops) (addrStatus_valid_of_wf hwf)).trans hstatus
  pending := resetBlock_pending _

/-- A busy bit that is already high stays so. -/
theorem polledStatus_busy (p : Params) {count : Nat} (h : count < Config.busyReads) (v : Byte) :
    polledStatus p count (v ||| p.busyMask) = v ||| p.busyMask := by
  rw [polledStatus, if_pos h, BitVec.or_assoc, BitVec.or_self]

/-- After the third read the busy bit is cleared, high as it was. -/
theorem polledStatus_ready (p : Params) (v : Byte) :
    polledStatus p 3 (v ||| p.busyMask) = v &&& ~~~p.busyMask := by
  rw [polledStatus, if_neg (by decide), or_and_not_self]

/-- Settles O26: the reset, then four reads of STATUS, each from the state that the one before leaves. -/
theorem firstThreeStatusReadsAfterResetAreBusy : Obligations.FirstThreeStatusReadsAfterResetAreBusy := by
  intro s rest hwf hsim hp
  have hvalid := addrStatus_valid_of_wf hwf
  simp only [clocks_append, List.cons_append, List.append_assoc] at hp
  obtain ⟨u1, hrun1, h1, hout1⟩ := (resetBlock_betweenPolls hwf hsim).poll hvalid
  have hbusy1 : polledStatus s.params 0 0x80 = 0x80 ||| s.params.busyMask := rfl
  rw [hbusy1] at h1 hout1
  obtain ⟨u2, hrun2, h2, hout2⟩ := h1.poll hvalid
  rw [polledStatus_busy s.params (count := countedOnce 0) (by decide)] at h2 hout2
  obtain ⟨u3, hrun3, h3, hout3⟩ := h2.poll hvalid
  rw [polledStatus_busy s.params (count := countedOnce (countedOnce 0)) (by decide)] at h3 hout3
  obtain ⟨t, hrun4, h4, hout4⟩ := h3.poll hvalid
  refine ⟨t, runSteps_cons (step_pending hp) (runSteps_trans hrun1 (runSteps_trans hrun2 (runSteps_trans hrun3 hrun4))),
    h4.pending, h4.statusReads, ?_⟩
  have hready : polledStatus s.params (countedOnce (countedOnce (countedOnce 0))) (0x80 ||| s.params.busyMask) =
      0x80 &&& ~~~s.params.busyMask := polledStatus_ready s.params 0x80
  rw [hout4, hout3, hout2, hout1, hready, resetBlock_observed]
  simp

end Sys2Proof.Machine
end
